-- ==== Sys2Proof/Word.lean ====
section
/-!
DEFINITION. The widths the spec fixes (rules R7, R8, R11).

A value of the spec's type `Bits n` (rule R9) is a `BitVec n`: the number `v` and the sequence `seq_n(v)` are one value, since
rule R12 makes `seq_n` and `val` inverse to each other. Sequence element `i`, counted from the left, is bit `n - 1 - i`
(`Machine/Datapath.lean`).
-/

namespace Sys2Proof

/-- A register word, `REG_W = 32` bits (rules R8, R11). -/
abbrev Word := BitVec 32

/-- A block, `BLOCK_W = 8` bits; also a subkey, `SUBKEY_W = 8` (rule R7). -/
abbrev Block := BitVec 8

/-- A key, `KEY_W = 10` bits. Key number `k` is the key `seq_10(k)`, which is the same value here (rules R7, R12). -/
abbrev Key := BitVec 10

/-- A half-block, `HALF_W = 4` bits (rule R7). -/
abbrev Half := BitVec 4

end Sys2Proof
end

