-- ==== Sys2Proof/Machine/Datapath.lean ====
section
/-!
DEFINITION. The bit-vector datapath (rules R9, R10, R12, R160 to R165).
-/

namespace Sys2Proof.Machine

/-- Element `i` of a bit sequence, counted from 0 at the left (rule R9): the most significant bit is element 0 (rule R12). -/
def elt {n : Nat} (s : BitVec n) (i : Nat) : Bool := s.getMsbD i

/-- The sequence of `n` elements whose element `i` is `f i` (rule R9). -/
def ofElts : (n : Nat) → (Nat → Bool) → BitVec n
  | 0, _ => 0#0
  | n + 1, f => (ofElts n f).concat (f n)

/-- `seq_n(v)` (rule R12). -/
def seqOf (n v : Nat) : BitVec n := BitVec.ofNat n v

/-- `val(s)` (rule R12). -/
def val {n : Nat} (s : BitVec n) : Nat := s.toNat

/-- `permute(s, T)` for a table of `n` entries: `output<i> = s<T<i> - 1>` (rules R10, R160). -/
def permute {m : Nat} (n : Nat) (s : BitVec m) (t : List Nat) : BitVec n :=
  ofElts n (fun i => elt s (t.getD i 0 - 1))

/-- `rotl(s, n)`: `output<i> = s<(i + n) mod m>` (rule R162). -/
def rotl {m : Nat} (s : BitVec m) (n : Nat) : BitVec m := s.rotateLeft n

/-- `left(s)` of a sequence of `2h` elements (rule R165). -/
def leftHalf {w : Nat} (h : Nat) (s : BitVec w) : BitVec h := s.extractLsb' h h

/-- `right(s)` of a sequence of `2h` elements (rule R165). -/
def rightHalf {w : Nat} (h : Nat) (s : BitVec w) : BitVec h := s.extractLsb' 0 h

end Sys2Proof.Machine
end

