-- ==== Sys2Proof/Syntax.lean ====
section
/-!
DEFINITION. The command set `SDES-CMD` revision 1 (rules R2, R104), and the abstract form of a host script (rules R107 to R109).
-/

namespace Sys2Proof

/-- The six commands of the command word (rule R104). A command has no operand field: it reads fixed registers (rule R103). -/
inductive Instr where
  | nop
  | keysched
  | encrypt
  | decrypt
  | search
  | abort
deriving DecidableEq, Repr

/-- The register names of the window (10_state.md, register map; the `<reg>` of rule R107). -/
inductive Reg where
  | id | param | ctrl | cmd | status | key | din | target | dout | subkeys | progress
  | resCount | resIndex | resKey | resTime | time
  | matchMap (j : Fin 32)
deriving DecidableEq, Repr

/-- One line of a host's work, the encoding of a script statement (rule R108): `(W, off, value)`, `(R, off)` and
`(P, off, mask, value)`. A read and a write carry the width in bytes of the access, so that accesses the bus does not admit (rule
R74) can be written down; a script statement always gives width 4 (rule R70). `copy off src` is the `(W, off, value)` whose value is
the one the script last recorded for the register at `src` (rule R107); `readResults` is the host's loop over the results, bounded by
the value recorded for RES_COUNT (rules R110, R298). -/
inductive HostOp where
  | write (off width : Nat) (value : Word)
  | read (off width : Nat)
  | poll (off : Nat) (mask value : Word)
  | copy (off src : Nat)
  | readResults
deriving DecidableEq, Repr

/-- A statement of a host script (rule R107). `wrRead reg src` is `WR <reg>, <src>`, the write of a value an RD has recorded
(95_test_vectors.md, program P1). -/
inductive Stmt where
  | wr (reg : Reg) (imm : Word)
  | wrRead (reg src : Reg)
  | rd (reg : Reg)
  | poll (reg : Reg) (mask value : Word)
deriving DecidableEq, Repr

/-- The pseudo-instructions of rule R109. The strings of the last three are lists of characters. -/
inductive Pseudo where
  | command (i : Instr)
  | wait
  | ack
  | setKey (chars : List Char)
  | setBlk (chars : List Char)
  | setTgt (chars : List Char)
deriving DecidableEq, Repr

/-- What a script states, line by line (rules R107, R109). `readResults` is the host's loop over the results: `WR RES_INDEX, i;
RD RES_KEY; RD RES_TIME` for each `i` below the RES_COUNT that the script has read (rules R110, R298; program P2). -/
inductive ScriptStmt where
  | plain (s : Stmt)
  | pseudo (p : Pseudo)
  | readResults
deriving DecidableEq, Repr

end Sys2Proof
end

