-- ==== Sys2Proof/WellFormed.lean ====
section
/-!
DEFINITION. Well-formedness of what a program is made of.

A command has no operand (rule R103), so every term of `Instr` is well-formed. What can be ill-formed is a bus transaction: an
access that is not an aligned 32-bit word (rule R74), or one outside the register window (rule R70). The well-formedness of the
configuration (rule R166) is `Config.wellFormed` in `Machine/Tables.lean`.
-/

namespace Sys2Proof

/-- Every command is well-formed: the command word has no register, immediate or mode field (rules R100, R103). -/
def Instr.wellFormed (i : Instr) : Bool :=
  match i with
  | .nop => true
  | .keysched => true
  | .encrypt => true
  | .decrypt => true
  | .search => true
  | .abort => true

/-- The offset lies in the window and is aligned (rules R70, R74). -/
def offsetWellFormed (off : Nat) : Bool := decide (off < 512) && off % 4 == 0

/-- A transaction the window admits: an aligned 32-bit access inside the window (rules R70, R74). -/
def HostOp.wellFormed (t : HostOp) : Bool :=
  match t with
  | .write off width _ => offsetWellFormed off && width == 4
  | .read off width => offsetWellFormed off && width == 4
  | .poll off _ _ => offsetWellFormed off
  | .copy off src => offsetWellFormed off && offsetWellFormed src
  | .readResults => true

end Sys2Proof
end

