-- ==== Sys2Proof/Decode.lean ====
section
/-!
DEFINITION. The command decoder and encoder (rules R100 to R106).
-/

namespace Sys2Proof

/-- Why a command word is illegal (rule R105). Both are rejected with ILLEGAL_CMD. -/
inductive DecodeError where
  /-- `w[31:4] != 0` (rule R102). -/
  | reservedBits
  /-- OP in 0x6 to 0xF (rule R105). -/
  | reservedOpcode
deriving DecidableEq, Repr

/-- The field OP, bits 3:0 of the command word (rule R100). -/
def opField (w : Word) : BitVec 4 := w.extractLsb' 0 4

/-- The field RSVZ, bits 31:4 of the command word (rule R100). -/
def rsvzField (w : Word) : BitVec 28 := w.extractLsb' 4 28

/-- The opcode map of rule R104; opcodes 0x6 to 0xF are reserved (rule R105). -/
def decodeOp (op : BitVec 4) : Except DecodeError Instr :=
  if op = 0x0#4 then .ok .nop
  else if op = 0x1#4 then .ok .keysched
  else if op = 0x2#4 then .ok .encrypt
  else if op = 0x3#4 then .ok .decrypt
  else if op = 0x4#4 then .ok .search
  else if op = 0x5#4 then .ok .abort
  else .error .reservedOpcode

/-- The decoder, total on 32-bit words (rule R106). -/
def decode (w : Word) : Except DecodeError Instr :=
  if rsvzField w ≠ 0#28 then .error .reservedBits else decodeOp (opField w)

/-- The opcode of a command (rule R104). -/
def Instr.opcode (i : Instr) : BitVec 4 :=
  match i with
  | .nop => 0x0#4
  | .keysched => 0x1#4
  | .encrypt => 0x2#4
  | .decrypt => 0x3#4
  | .search => 0x4#4
  | .abort => 0x5#4

/-- The command word of a command: RSVZ zero, OP its opcode (rules R100, R102, R104). -/
def encode (i : Instr) : Word := 0#28 ++ i.opcode

/-- The command word whose bits are `w` numbered from the least significant bit, `nbits` of them given and every bit above them 0;
`none` where a bit above bit 31 is set, since a command word has 32 bits (rule R101). -/
def tableWord (nbits w : Nat) : Option Word :=
  if w % 2 ^ nbits < 2 ^ 32 then some (BitVec.ofNat 32 (w % 2 ^ nbits)) else none

/-- The command the decoder reads from a row of the opcode table (rules R104, R106). A register moves as one whole 32-bit word, so
no byte order arises (rule R72). -/
def decodeTableWord (nbits w : Nat) : Option Instr :=
  match tableWord nbits w with
  | some word =>
    match decode word with
    | .ok i => some i
    | .error _ => none
  | none => none

end Sys2Proof
end

