-- ==== Sys2Proof/Config.lean ====
section
/-!
DEFINITION. What an implementation of the block fixes (rules R8, R53, R166), the agents that take steps (rule R58), and the one
free value: which agent moves when no schedule is given (rule R14, log 4).
-/

namespace Sys2Proof

/-- The parameter `TABLES`: the eight constant tables of rule R166. Permutation tables are lists of 1-based source positions (rule
R10). An S-box is four rows of four entries. Their constraints are `Tables.wellFormed` (`Machine/Tables.lean`). -/
structure Tables where
  p10   : List Nat
  p8    : List Nat
  ip    : List Nat
  ipinv : List Nat
  ep    : List Nat
  p4    : List Nat
  sbox1 : List (List Nat)
  sbox2 : List (List Nat)
deriving DecidableEq, Repr

/-- The parameters of rule R8 that are OPEN. The state carries one value of them, which no step changes (log 1). -/
structure Config where
  /-- `TABLES` (rules R8, R53, R166). -/
  tables : Tables
  /-- `N_LANES`, 1 to 1024 (rule R8). -/
  nLanes : Nat
  /-- `BASE`, the bus address of the register window, aligned to 512 (rules R8, R70). -/
  base : Nat
  /-- `IRQ_LINE`, the host interrupt input that `irq` drives (rules R8, R350). -/
  irqLine : Nat
  /-- `CLK_PERIOD`, the period of the clock that TIME counts (rules R8, R362). -/
  clkPeriod : Nat
  /-- `LAT_CIPHER`, cycles from acceptance to completion of a cipher command (rules R8, R396). -/
  latCipher : Nat
  /-- `LAT_LANE`, cycles one lane takes for one key (rules R8, R396). -/
  latLane : Nat
deriving DecidableEq, Repr

/-- The agents of rule R58, and the platform that takes the reset step of rule R380. `dispatcher j` is the dispatcher choosing lane
`j` (rule R278 leaves the choice free); `lane j` is lane agent `j`. -/
inductive Agent where
  | host
  | commandUnit
  | dispatcher (j : Nat)
  | lane (j : Nat)
  | clock
  | platform
deriving DecidableEq, Repr, Inhabited

/-- The agent that takes the `n`-th turn for which the state's `schedule` names none. Any enabled step may be taken next (rule
R58), so this is a free value: a constant without a body (log 4). -/
opaque Config.freeAgent : Nat → Agent

/-- `KEY_SPACE = 2^10 = 1024`, also `RESULT_DEPTH` (rules R7, R8). -/
abbrev Config.keySpace : Nat := 1024

/-- Bytes of the register window (rule R70). -/
abbrev Config.windowBytes : Nat := 512

end Sys2Proof
end

