-- ==== Sys2Proof/Machine/Tables.lean ====
section
/-!
DEFINITION. The constant tables: the presets (rule R168), the constraints on them (rule R166), and the well-formedness of a whole
configuration (rule R8).
-/

namespace Sys2Proof.Machine

/-- The preset TEXTBOOK, the default (rule R168). PRESUMED: the spec itself takes its entries from general knowledge (log 3). -/
def textbook : Tables where
  p10 := [3, 5, 2, 7, 4, 10, 1, 9, 8, 6]
  p8 := [6, 3, 7, 4, 8, 5, 10, 9]
  ip := [2, 6, 3, 1, 4, 8, 5, 7]
  ipinv := [4, 1, 3, 5, 7, 2, 8, 6]
  ep := [4, 1, 2, 3, 2, 3, 4, 1]
  p4 := [2, 4, 3, 1]
  sbox1 := [[1, 0, 3, 2], [3, 2, 1, 0], [0, 2, 1, 3], [3, 1, 3, 2]]
  sbox2 := [[0, 1, 2, 3], [2, 0, 1, 3], [3, 0, 1, 0], [2, 1, 0, 3]]

/-- The preset VARIANT: TEXTBOOK with two other S-boxes (rule R168). PRESUMED, as the spec says (log 3). -/
def variant : Tables :=
  { textbook with
    sbox1 := [[1, 0, 3, 2], [3, 2, 1, 0], [0, 2, 1, 3], [3, 1, 0, 2]]
    sbox2 := [[0, 1, 2, 3], [2, 3, 1, 0], [3, 0, 1, 2], [2, 1, 0, 3]] }

/-- `TABLES_ID`: 0 for TEXTBOOK, 1 for VARIANT, 0xFF for any other table set (rules R8, R32). -/
def tablesId (t : Tables) : BitVec 8 :=
  if t = textbook then 0x00#8 else if t = variant then 0x01#8 else 0xFF#8

/-- A table of `n` entries, each in `1 .. m` (rule R166, length and entry range). -/
def tableShape (n m : Nat) (t : List Nat) : Bool :=
  t.length == n && t.all (fun e => decide (1 ≤ e) && decide (e ≤ m))

/-- Each of `1 .. n` exactly once (rule R166, extra check). -/
def eachOnce (n : Nat) (t : List Nat) : Bool :=
  (List.range n).all (fun i => t.count (i + 1) == 1)

/-- `IPINV` undoes `IP`: entry by entry, position `IPINV<i>` of `IP` holds `i + 1`. For tables of the right shape this says
`permute(permute(s, IP), IPINV) = s` for every `s` (rule R166); `Laws/Cipher.lean` proves the two equivalent. -/
def undoes (ip ipinv : List Nat) : Bool :=
  (List.range 8).all (fun i => ip.getD (ipinv.getD i 0 - 1) 0 == i + 1)

/-- An S-box: 4 rows of 4 entries, each in `0 .. 3` (rule R166). -/
def sboxShape (b : List (List Nat)) : Bool :=
  b.length == 4 && b.all (fun row => row.length == 4 && row.all (fun e => decide (e ≤ 3)))

end Sys2Proof.Machine

namespace Sys2Proof

/-- A `TABLES` value meets the constraints of rule R166. -/
def Tables.wellFormed (t : Tables) : Bool :=
  Machine.tableShape 10 10 t.p10 && (Machine.eachOnce 10 t.p10 && (
  Machine.tableShape 8 10 t.p8 && (
  Machine.tableShape 8 8 t.ip && (Machine.eachOnce 8 t.ip && (
  Machine.tableShape 8 8 t.ipinv && (Machine.undoes t.ip t.ipinv && (
  Machine.tableShape 8 4 t.ep && (
  Machine.tableShape 4 4 t.p4 && (Machine.eachOnce 4 t.p4 && (
  Machine.sboxShape t.sbox1 && Machine.sboxShape t.sbox2))))))))))

/-- A configuration the model runs: well-formed tables, 1 to 1024 lanes, a base aligned to 512 (rules R8, R70, R149, R166). -/
def Config.wellFormed (c : Config) : Bool :=
  decide (1 ≤ c.nLanes) && (decide (c.nLanes ≤ 1024) && (c.base % 512 == 0 && c.tables.wellFormed))

/-- The configuration of `State.reset`: the spec's default preset (rule R8); the other values are DESIGN CHOICES (log 2). -/
def Config.default : Config where
  tables := Machine.textbook
  nLanes := 4
  base := 0
  irqLine := 0
  clkPeriod := 1
  latCipher := 1
  latLane := 1

end Sys2Proof
end

