-- ==== Sys2Proof/Machine/State.lean ====
section
/-!
DEFINITION. The state of the block (rules R30 to R59), of the host that drives it, and of the schedule, as plain data; the reasons
a step can stop; the state after reset (rule R59).
-/

namespace Sys2Proof.Machine

/-- The work commands, those that set BUSY (rules R15, R104). -/
inductive WorkCmd where
  | keysched
  | encrypt
  | decrypt
  | search
deriving DecidableEq, Repr

/-- `internal.LANE[j]` (rule R54). -/
inductive Lane where
  | idle
  | eval (k : Key)
deriving DecidableEq, Repr

/-- An entry of the result sink (rule R45). -/
structure SinkEntry where
  key  : Key
  time : Word
deriving DecidableEq, Repr

/-- A value a script's RD statement has recorded (rule R107): the offset read and the word returned. -/
structure Reading where
  off   : Nat
  value : Word
deriving DecidableEq, Repr

/-- Why a run stops. -/
inductive Fault where
  /-- `BusError(off, width)`: raised by a host access that is not an aligned 32-bit access (rules R74, R344). Safe: the spec makes
  it a fault of the host in the model, and the block's state does not change (log 8). -/
  | busError (off width : Nat)
deriving DecidableEq, Repr

/-- Why a step has no meaning. -/
inductive Refusal where
  /-- The instruction has no meaning in the model yet; no arm of `exec` answers so. Safe. -/
  | notModelled (mnemonic : String)
  /-- The configuration fails a check of rule R166 or R8; every step refuses it (rules R8, R149). Safe (log 10). -/
  | illFormedConfiguration
  /-- A host access outside the 512-byte window, which belongs to the platform (rules R70, R71). Safe (log 9). -/
  | outsideWindow (off : Nat)
  /-- A host script uses a value it has never read: `WR <reg>, <src>` with no `RD <src>` before it, or the loop over the results with
  no `RD RES_COUNT` before it. Rule R107 gives such a script no value to write. Raised by the host's turn. Safe (log 17). -/
  | unreadValue (src : Nat)
deriving DecidableEq, Repr

end Sys2Proof.Machine

namespace Sys2Proof.Machine

/-- The machine's state. -/
structure State where
  /-- The configuration: constant for the life of the block (rules R8, R53, R167; log 1). -/
  cfg : Config
  /-- CTRL.DONE_IE (rule R33). -/
  doneIe : Bool
  /-- CTRL.ERR_IE (rule R33). -/
  errIe : Bool
  /-- STATUS.DONE (rule R35). -/
  done : Bool
  /-- STATUS.ERR (rule R35). -/
  err : Bool
  /-- STATUS.ABORTED (rule R35). -/
  aborted : Bool
  /-- STATUS.ERRCODE (rules R35, R340). -/
  errcode : BitVec 4
  /-- STATUS.LASTOP (rule R35). -/
  lastop : BitVec 4
  /-- KEY, all 32 bits (rule R36). -/
  key : Word
  /-- DIN, all 32 bits (rule R37). -/
  din : Word
  /-- TARGET, all 32 bits (rule R38). -/
  target : Word
  /-- DOUT[7:0] (rule R39). -/
  dout : Block
  /-- SUBKEYS[7:0], the subkey K1 (rule R40). -/
  subK1 : Block
  /-- SUBKEYS[15:8], the subkey K2 (rule R40). -/
  subK2 : Block
  /-- RES_INDEX[9:0] (rule R43). -/
  resIndex : BitVec 10
  /-- `internal.OP`, with `none` for NONE (rule R55). -/
  op : Option WorkCmd
  /-- `internal.OP_KEY` (rule R55). -/
  opKey : Key
  /-- `internal.OP_IN` (rule R55). -/
  opIn : Block
  /-- `internal.OP_PT` (rule R55). -/
  opPt : Block
  /-- `internal.NEXT_KEY`, 0 to 1024 (rules R50, R56). -/
  nextKey : Nat
  /-- `internal.EVALUATED`, 0 to 1024 (rule R56). -/
  evaluated : Nat
  /-- `internal.CANCEL` (rule R56). -/
  cancel : Bool
  /-- `internal.LANE`, lane 0 first; its length is `N_LANES` (rule R54). -/
  lanes : List Lane
  /-- `internal.SINK`, in append order (rule R45). -/
  sink : List SinkEntry
  /-- `internal.COUNT`, 0 to 1024 (rule R45). -/
  count : Nat
  /-- `internal.MAP`: bit `k` is `internal.MAP[k]` (rules R48, R56). -/
  map : BitVec 1024
  /-- `internal.TIME` (rules R47, R56). -/
  time : Word
  /-- The model's own: the lines of work the host has still to do, the next one first (rule R108; log 6). -/
  script : List HostOp
  /-- The model's own: what the host's RD statements have recorded, oldest first; the host's later writes can use it (rule R107; log
  7, 17). -/
  record : List Reading
  /-- The model's own: the agents that take the next turns, the next one first (rules R14, R58; log 4). -/
  schedule : List Agent
  /-- The model's own: how many turns were drawn from `Config.freeAgent` (log 4). -/
  draws : Nat
deriving DecidableEq, Repr

/-- The block with configuration `c` after reset (rule R59), beside a host with nothing to do and no schedule (log 4, 6, 7). -/
def State.resetWith (c : Config) : State where
  cfg := c
  doneIe := false
  errIe := false
  done := false
  err := false
  aborted := false
  errcode := 0#4
  lastop := 0#4
  key := 0#32
  din := 0#32
  target := 0#32
  dout := 0#8
  subK1 := 0#8
  subK2 := 0#8
  resIndex := 0#10
  op := none
  opKey := 0#10
  opIn := 0#8
  opPt := 0#8
  nextKey := 0
  evaluated := 0
  cancel := false
  lanes := List.replicate c.nLanes .idle
  sink := []
  count := 0
  map := 0#1024
  time := 0#32
  script := []
  record := []
  schedule := []
  draws := 0

/-- The machine right after reset, with the default configuration (rules R8, R59; log 2). -/
def State.reset : State := State.resetWith Config.default

end Sys2Proof.Machine
end

