-- ==== Sys2Proof/Machine/Ops.lean ====
section
/-!
DEFINITION. The operations the commands and the registers share: rejecting a command and ending its error, finishing a work command,
the adding of a match to the result sink.
-/

namespace Sys2Proof.Machine

/-- The causes of a rejection (rule R340). `invalidSymbol` is reserved for the host; the block never raises it. -/
inductive CmdError where
  | invalidLength
  | invalidSymbol
  | illegalCmd
  | busy
deriving DecidableEq, Repr

/-- The ERRCODE of a cause (rule R340); 0 is NONE. -/
def CmdError.code (e : CmdError) : BitVec 4 :=
  match e with
  | .invalidLength => 1#4
  | .invalidSymbol => 2#4
  | .illegalCmd => 3#4
  | .busy => 4#4

/-- `raise CmdError(code)`, the block's error entry (rules R146, R355): ERR is set, ERRCODE takes the newest code (rule R357), and
nothing else changes. There is no vector, no saved state and no mode (rule R355). -/
def raiseCmdError (e : CmdError) (s : State) : State := { s with err := true, errcode := e.code }

/-- The host's end of error handling, the write of 1 to STATUS bit 2 (rule R357). -/
def clearError (s : State) : State := { s with err := false, errcode := 0#4 }

/-- The write of 1 to STATUS bit 1 (rule R35). -/
def clearDone (s : State) : State := { s with done := false }

/-- The command a work command is (rule R104). -/
def WorkCmd.instr (c : WorkCmd) : Instr :=
  match c with
  | .keysched => .keysched
  | .encrypt => .encrypt
  | .decrypt => .decrypt
  | .search => .search

/-- The OP field of a work command, 1 to 4, which LASTOP takes (rules R35, R143). -/
def WorkCmd.opcode (c : WorkCmd) : BitVec 4 := c.instr.opcode

/-- STATUS.BUSY reads 1 exactly when `internal.OP != NONE` (rules R35, R55). -/
def State.busy (s : State) : Bool := s.op.isSome

/-- The end of every completion step: `internal.OP <- NONE; STATUS.DONE <- 1` (rule R148). -/
def finish (s : State) : State := { s with op := none, done := true }

/-- The subkey pair goes to SUBKEYS, K1 in bits 7:0 and K2 in bits 15:8 (rule R40). -/
def setSubkeys (ks : Block × Block) (s : State) : State := { s with subK1 := ks.1, subK2 := ks.2 }

/-- One atomic append of a match (rules R82, R280): the sink gets the key and the TIME of the moment, COUNT one more, MAP its bit. -/
def appendMatch (k : Key) (s : State) : State :=
  { s with
    sink := s.sink ++ [⟨k, s.time⟩]
    count := s.count + 1
    map := s.map ||| BitVec.twoPow 1024 k.toNat }

end Sys2Proof.Machine
end

