-- ==== Sys2Proof/Machine/Operands.lean ====
section
/-!
DEFINITION. The operands of a command (rules R103, R144), and the acceptance or rejection of a work command (rules R141, R143).
-/

namespace Sys2Proof.Machine

/-- The commands that read KEY (rules R103, R144). -/
def WorkCmd.readsKey (c : WorkCmd) : Bool :=
  match c with
  | .keysched => true
  | .encrypt => true
  | .decrypt => true
  | .search => false

/-- The commands that read DIN (rules R103, R144). -/
def WorkCmd.readsDin (c : WorkCmd) : Bool :=
  match c with
  | .keysched => false
  | .encrypt => true
  | .decrypt => true
  | .search => true

/-- The command that reads TARGET (rules R103, R144). -/
def WorkCmd.readsTarget (c : WorkCmd) : Bool :=
  match c with
  | .keysched => false
  | .encrypt => false
  | .decrypt => false
  | .search => true

/-- `KEY[9:0]`, the key operand (rule R103). -/
def keyOperand (s : State) : Key := s.key.extractLsb' 0 10

/-- `DIN[7:0]`, the block operand (rule R103). -/
def dinOperand (s : State) : Block := s.din.extractLsb' 0 8

/-- `TARGET[7:0]`, the second block operand (rule R103). -/
def targetOperand (s : State) : Block := s.target.extractLsb' 0 8

/-- `KEY[31:10] = 0` (rule R144). -/
def keyFits (s : State) : Bool := s.key.extractLsb' 10 22 == 0#22

/-- `DIN[31:8] = 0` (rule R144). -/
def dinFits (s : State) : Bool := s.din.extractLsb' 8 24 == 0#24

/-- `TARGET[31:8] = 0` (rule R144). -/
def targetFits (s : State) : Bool := s.target.extractLsb' 8 24 == 0#24

/-- `widths_ok(c)` (rule R144). -/
def widthsOk (c : WorkCmd) (s : State) : Bool :=
  (!c.readsKey || keyFits s) && (!c.readsDin || dinFits s) && (!c.readsTarget || targetFits s)

/-- The latching of the operands at acceptance (rule R143). -/
def latchOperands (c : WorkCmd) (s : State) : State :=
  { s with
    opKey := if c.readsKey then keyOperand s else s.opKey
    opIn := if c.readsDin then dinOperand s else s.opIn
    opPt := if c.readsTarget then targetOperand s else s.opPt }

/-- `search_start()` (rule R276). -/
def searchStart (s : State) : State :=
  { s with
    nextKey := 0
    evaluated := 0
    cancel := false
    sink := []
    count := 0
    map := 0#1024
    time := 0#32 }

/-- `accept(c)` (rule R143). ERR and ERRCODE keep their values. -/
def accept (c : WorkCmd) (s : State) : State :=
  let latched := latchOperands c s
  let started := if c = .search then searchStart latched else latched
  { started with op := some c, done := false, aborted := false, lastop := c.opcode }

/-- The issue of a work command: BUSY, then INVALID_LENGTH, then acceptance (rules R141, R352). -/
def issueWork (c : WorkCmd) (s : State) : State :=
  if s.busy then raiseCmdError .busy s
  else if widthsOk c s then accept c s
  else raiseCmdError .invalidLength s

end Sys2Proof.Machine
end

