-- ==== Sys2Proof/Machine/KeySchedule.lean ====
section
/-!
DEFINITION. The key schedule (rules R180, R181) and KEYSCHED (rule R182).
-/

namespace Sys2Proof.Machine

/-- `keysched(key)`, the pair (K1, K2) (rule R180; the rotation of K2 is cumulative, conflict C2). -/
def keySchedule (t : Tables) (key : Key) : Block × Block :=
  let p := permute 10 key t.p10
  let l1 := rotl (leftHalf 5 p) 1
  let r1 := rotl (rightHalf 5 p) 1
  let l2 := rotl l1 2
  let r2 := rotl r1 2
  (permute 8 (l1 ++ r1) t.p8, permute 8 (l2 ++ r2) t.p8)

/-- The issue of KEYSCHED (rules R141, R182). -/
def execKeysched (s : State) : Host.Outcome State Fault Refusal := .next (issueWork .keysched s)

/-- The completion step of KEYSCHED (rules R148, R182). -/
def completeKeysched (s : State) : State := finish (setSubkeys (keySchedule s.cfg.tables s.opKey) s)

end Sys2Proof.Machine
end

