-- ==== Sys2Proof/Machine/RoundFunction.lean ====
section
/-!
DEFINITION. The S-boxes and the round function (rules R200 to R205).
-/

namespace Sys2Proof.Machine

/-- The row an S-box input selects: `2*h<0> + h<3>` (rule R200). -/
def sboxRow (h : Half) : Nat := 2 * (elt h 0).toNat + (elt h 3).toNat

/-- The column an S-box input selects: `2*h<1> + h<2>` (rule R200). -/
def sboxCol (h : Half) : Nat := 2 * (elt h 1).toNat + (elt h 2).toNat

/-- `sbox(B, h)` (rule R200). -/
def sbox (b : List (List Nat)) (h : Half) : BitVec 2 := seqOf 2 ((b.getD (sboxRow h) []).getD (sboxCol h) 0)

/-- `F(r, k)` (rule R203). -/
def roundF (t : Tables) (r : Half) (k : Block) : Half :=
  let e := permute 8 r t.ep ^^^ k
  permute 4 (sbox t.sbox1 (leftHalf 4 e) ++ sbox t.sbox2 (rightHalf 4 e)) t.p4

end Sys2Proof.Machine
end

