-- ==== Sys2Proof/Machine/Cipher.lean ====
section
/-!
DEFINITION. The block cipher (rules R220 to R223), ENCRYPT (rule R224) and DECRYPT (rule R226).
-/

namespace Sys2Proof.Machine

/-- `rounds(blk, ka, kb)` (rule R220, with the second round's F applied to R1 and the output `R2 ++ L2`: conflict C1). -/
def rounds (t : Tables) (blk ka kb : Block) : Block :=
  let u := permute 8 blk t.ip
  let l0 := leftHalf 4 u
  let r0 := rightHalf 4 u
  let l1 := r0
  let r1 := l0 ^^^ roundF t r0 ka
  let l2 := r1
  let r2 := l1 ^^^ roundF t r1 kb
  permute 8 (r2 ++ l2) t.ipinv

/-- `Encrypt(p, key)` (rule R222). -/
def encryptBlock (t : Tables) (p : Block) (key : Key) : Block :=
  let ks := keySchedule t key
  rounds t p ks.1 ks.2

/-- `Decrypt(c, key)`: the same structure with K2 first (rule R223). -/
def decryptBlock (t : Tables) (c : Block) (key : Key) : Block :=
  let ks := keySchedule t key
  rounds t c ks.2 ks.1

/-- The issue of ENCRYPT (rules R141, R224). -/
def execEncrypt (s : State) : Host.Outcome State Fault Refusal := .next (issueWork .encrypt s)

/-- The issue of DECRYPT (rules R141, R226). -/
def execDecrypt (s : State) : Host.Outcome State Fault Refusal := .next (issueWork .decrypt s)

/-- The completion step of ENCRYPT: DOUT, SUBKEYS, then the end (rules R148, R224). -/
def completeEncrypt (s : State) : State :=
  finish (setSubkeys (keySchedule s.cfg.tables s.opKey) { s with dout := encryptBlock s.cfg.tables s.opIn s.opKey })

/-- The completion step of DECRYPT: DOUT, SUBKEYS in the same layout as ENCRYPT, then the end (rules R148, R226). -/
def completeDecrypt (s : State) : State :=
  finish (setSubkeys (keySchedule s.cfg.tables s.opKey) { s with dout := decryptBlock s.cfg.tables s.opIn s.opKey })

end Sys2Proof.Machine
end

