-- ==== Sys2Proof/Machine/Search.lean ====
section
/-!
DEFINITION. The brute-force key search: SEARCH (rule R276), ABORT (rule R284), and the steps of the dispatcher (rule R278), the
lanes (rule R280), the clock (rule R288) and the join (rule R286).
-/

namespace Sys2Proof.Machine

/-- Key `k` decrypts `c` to `p`: the comparison of a lane, over all 8 elements (rules R270, R280). -/
def keyMatches (t : Tables) (p c : Block) (k : Key) : Bool := decryptBlock t c k == p

/-- `SearchSet(p, c)`, in ascending order of key number (rule R270). -/
def searchSet (t : Tables) (p c : Block) : List Key :=
  ((List.range Config.keySpace).map (seqOf 10)).filter (keyMatches t p c)

/-- The issue of SEARCH (rules R141, R276). -/
def execSearch (s : State) : Host.Outcome State Fault Refusal := .next (issueWork .search s)

/-- `abort_request()` (rule R284). -/
def abortRequest (s : State) : State := if s.op = some .search then { s with cancel := true } else s

/-- The issue of ABORT, which is never rejected for BUSY (rules R141, R284). -/
def execAbort (s : State) : Host.Outcome State Fault Refusal := .next (abortRequest s)

/-- When the dispatch step that chooses lane `j` is enabled (rule R278). -/
def dispatchEnabled (j : Nat) (s : State) : Bool :=
  s.op == some .search && !s.cancel && decide (s.nextKey < 1024) && s.lanes[j]? == some .idle

/-- The dispatch step that chooses lane `j` (rule R278). -/
def dispatch (j : Nat) (s : State) : State :=
  { s with lanes := s.lanes.set j (.eval (seqOf 10 s.nextKey)), nextKey := s.nextKey + 1 }

/-- The lane step of lane `j`, which holds key `k` (rule R280). -/
def evaluateKey (j : Nat) (k : Key) (s : State) : State :=
  let s1 := if keyMatches s.cfg.tables s.opPt s.opIn k then appendMatch k s else s
  { s1 with evaluated := s1.evaluated + 1, lanes := s1.lanes.set j .idle }

/-- When the join step is enabled (rule R286). -/
def joinEnabled (s : State) : Bool :=
  s.op == some .search && s.lanes.all (fun l => l == .idle) && (s.nextKey == 1024 || s.cancel)

/-- The join step (rule R286). -/
def join (s : State) : State :=
  finish { s with aborted := s.cancel && decide (s.nextKey < 1024), cancel := false }

/-- The clock step (rule R288). -/
def tick (s : State) : State := { s with time := s.time + 1#32 }

end Sys2Proof.Machine
end

