-- ==== Sys2Proof/Machine/CommandUnit.lean ====
section
/-!
DEFINITION. NOP (rule R150), the command unit's step (rules R148, R286) and the turns of the block's internal agents (rule R58).

A turn answers a state and nothing else: after acceptance nothing can fail (rule R342). An agent whose step is not enabled leaves
the state as it is (log 5).
-/

namespace Sys2Proof.Machine

/-- NOP: no state changes (rule R150). -/
def execNop (s : State) : Host.Outcome State Fault Refusal := .next s

/-- The command unit: a completion step, or the join of a SEARCH (rules R148, R286). -/
def commandUnitTurn (s : State) : State :=
  match s.op with
  | none => s
  | some .keysched => completeKeysched s
  | some .encrypt => completeEncrypt s
  | some .decrypt => completeDecrypt s
  | some .search => if joinEnabled s then join s else s

/-- The dispatcher, choosing lane `j` (rule R278). -/
def dispatcherTurn (j : Nat) (s : State) : State := if dispatchEnabled j s then dispatch j s else s

/-- Lane agent `j` (rule R280). -/
def laneTurn (j : Nat) (s : State) : State :=
  match s.lanes[j]? with
  | some (.eval k) => evaluateKey j k s
  | some .idle => s
  | none => s

/-- The clock, which ticks only during a SEARCH (rule R288). -/
def clockTurn (s : State) : State := if s.op = some .search then tick s else s

/-- The reset step: every piece of the block's state takes its reset value, the configuration is not touched (rules R59, R380). The
host and the schedule are outside the block and keep theirs. -/
def platformTurn (s : State) : State :=
  { State.resetWith s.cfg with script := s.script, record := s.record, schedule := s.schedule, draws := s.draws }

/-- Whether the step of an agent is enabled (rules R58, R148, R278, R280, R286, R288, R380). The host's is while its script is not at
its end (log 6). -/
def agentEnabled (a : Agent) (s : State) : Bool :=
  match a with
  | .host => !s.script.isEmpty
  | .commandUnit =>
    match s.op with
    | none => false
    | some .search => joinEnabled s
    | some _ => true
  | .dispatcher j => dispatchEnabled j s
  | .lane j =>
    match s.lanes[j]? with
    | some (.eval _) => true
    | some .idle => false
    | none => false
  | .clock => s.op == some .search
  | .platform => true

end Sys2Proof.Machine
end

