-- ==== Sys2Proof/Machine/Flags.lean ====
section
/-!
DEFINITION. The flags: CTRL and STATUS as words, their writes, and the interrupt output (rules R33, R35, R350).
-/

namespace Sys2Proof.Machine

/-- `irq = (CTRL.DONE_IE and STATUS.DONE) or (CTRL.ERR_IE and STATUS.ERR)` (rule R350). -/
def irq (s : State) : Bool := (s.doneIe && s.done) || (s.errIe && s.err)

/-- CTRL as read: DONE_IE in bit 0, ERR_IE in bit 1 (rule R33). -/
def ctrlWord (s : State) : Word := 0#30 ++ BitVec.ofBool s.errIe ++ BitVec.ofBool s.doneIe

/-- A host write to CTRL; bits 31:2 are ignored (rule R33). -/
def writeCtrl (v : Word) (s : State) : State :=
  { s with doneIe := v.getLsbD 0, errIe := v.getLsbD 1 }

/-- STATUS as read, from the reserved bits 31:13 down to BUSY in bit 0 (rule R35). -/
def statusWord (s : State) : Word :=
  0#19 ++ BitVec.ofBool (irq s) ++ s.lastop ++ s.errcode ++ BitVec.ofBool s.aborted ++ BitVec.ofBool s.err ++
    BitVec.ofBool s.done ++ BitVec.ofBool s.busy

/-- A host write to STATUS changes only DONE and ERR, and only where the written bit is 1; clearing ERR also clears ERRCODE (rule
R35). -/
def writeStatus (v : Word) (s : State) : State :=
  let s1 := if v.getLsbD 1 then clearDone s else s
  if v.getLsbD 2 then clearError s1 else s1

end Sys2Proof.Machine
end

