-- ==== Sys2Proof/Machine/Registers.lean ====
section
/-!
DEFINITION. The register window: the map of offsets to registers and the word each register reads (10_state.md, rules R30 to R49).
-/

namespace Sys2Proof.Machine

/-- The offset of a register (10_state.md, register map; `off(reg)` of rule R107). -/
def regOffset (r : Reg) : Nat :=
  match r with
  | .id => 0x000
  | .param => 0x004
  | .ctrl => 0x008
  | .cmd => 0x00C
  | .status => 0x010
  | .key => 0x014
  | .din => 0x018
  | .target => 0x01C
  | .dout => 0x020
  | .subkeys => 0x024
  | .progress => 0x028
  | .resCount => 0x02C
  | .resIndex => 0x030
  | .resKey => 0x034
  | .resTime => 0x038
  | .time => 0x03C
  | .matchMap j => 0x100 + 4 * j.val

/-- The register at an aligned offset of the window; none at the reserved offsets 0x040 to 0x0FC and 0x180 to 0x1FC (rule R49). -/
def regAt (off : Nat) : Option Reg :=
  if off < 0x040 then
    match off / 4 with
    | 0 => some .id
    | 1 => some .param
    | 2 => some .ctrl
    | 3 => some .cmd
    | 4 => some .status
    | 5 => some .key
    | 6 => some .din
    | 7 => some .target
    | 8 => some .dout
    | 9 => some .subkeys
    | 10 => some .progress
    | 11 => some .resCount
    | 12 => some .resIndex
    | 13 => some .resKey
    | 14 => some .resTime
    | _ => some .time
  else if 0x100 ≤ off ∧ off < 0x180 then some (.matchMap (Fin.ofNat 32 ((off - 0x100) / 4)))
  else none

/-- PARAM (rule R32): TABLES_ID, TS_WIDTH = 32, N_LANES. -/
def paramWord (c : Config) : Word := tablesId c.tables ++ 0x20#8 ++ BitVec.ofNat 16 c.nLanes

/-- SUBKEYS: K2 in bits 15:8, K1 in bits 7:0 (rule R40). -/
def subkeysWord (s : State) : Word := 0#16 ++ s.subK2 ++ s.subK1

/-- PROGRESS: EVALUATED in bits 26:16, DISPATCHED in bits 10:0 (rule R41). -/
def progressWord (s : State) : Word := 0#5 ++ BitVec.ofNat 11 s.evaluated ++ 0#5 ++ BitVec.ofNat 11 s.nextKey

/-- RES_COUNT (rule R42). -/
def resCountWord (s : State) : Word := 0#21 ++ BitVec.ofNat 11 s.count

/-- The sink entry RES_INDEX selects, if VALID: `(STATUS.BUSY = 0) and (i < internal.COUNT)` (rule R44). -/
def selectedEntry (s : State) : Option SinkEntry :=
  if s.busy = false ∧ s.resIndex.toNat < s.count then s.sink[s.resIndex.toNat]? else none

/-- RES_KEY: bit 31 VALID, bits 9:0 the key, or 0 (rule R44). -/
def resKeyWord (s : State) : Word :=
  match selectedEntry s with
  | some e => 1#1 ++ 0#21 ++ e.key
  | none => 0#32

/-- RES_TIME: the timestamp, or 0 (rule R46). -/
def resTimeWord (s : State) : Word :=
  match selectedEntry s with
  | some e => e.time
  | none => 0#32

/-- MATCH_MAPj: bit `b` is `internal.MAP[32*j + b]` while STATUS.BUSY = 0, else 0 (rule R48). -/
def matchMapWord (s : State) (j : Fin 32) : Word := if s.busy then 0#32 else s.map.extractLsb' (32 * j.val) 32

/-- The word a register reads (rules R31 to R48). -/
def readReg (s : State) (r : Reg) : Word :=
  match r with
  | .id => 0x53444553#32
  | .param => paramWord s.cfg
  | .ctrl => ctrlWord s
  | .cmd => 0#32
  | .status => statusWord s
  | .key => s.key
  | .din => s.din
  | .target => s.target
  | .dout => s.dout.setWidth 32
  | .subkeys => subkeysWord s
  | .progress => progressWord s
  | .resCount => resCountWord s
  | .resIndex => s.resIndex.setWidth 32
  | .resKey => resKeyWord s
  | .resTime => resTimeWord s
  | .time => s.time
  | .matchMap j => matchMapWord s j

/-- The word the window reads at an aligned offset; reserved offsets read 0 (rule R49). -/
def readWindow (s : State) (off : Nat) : Word :=
  match regAt off with
  | some r => readReg s r
  | none => 0#32

/-- A host write to a register other than CMD (rules R31 to R48, R76): the registers with RO access ignore it. -/
def writeReg (r : Reg) (v : Word) (s : State) : State :=
  match r with
  | .ctrl => writeCtrl v s
  | .status => writeStatus v s
  | .key => { s with key := v }
  | .din => { s with din := v }
  | .target => { s with target := v }
  | .resIndex => { s with resIndex := v.extractLsb' 0 10 }
  | .id => s
  | .param => s
  | .cmd => s
  | .dout => s
  | .subkeys => s
  | .progress => s
  | .resCount => s
  | .resKey => s
  | .resTime => s
  | .time => s
  | .matchMap _ => s

/-- The bus address of a window offset (rule R70). -/
def busAddress (c : Config) (off : Nat) : Nat := c.base + off

/-- The window offset of a bus address, if the address lies in the window (rules R70, R71). -/
def windowOffset (c : Config) (addr : Nat) : Option Nat :=
  if c.base ≤ addr ∧ addr < c.base + 512 then some (addr - c.base) else none

end Sys2Proof.Machine
end

