-- ==== Sys2Proof/Machine/HostPort.lean ====
section
/-!
DEFINITION. The host's accesses to the window (rules R70, R74, R76, R140) and the host's turn (rules R58, R107, R108); which agent
takes a turn (rules R14, R58).
-/

namespace Sys2Proof.Machine

/-- The issue of command word `w`, all in the host's one step (rules R140, R141): an illegal word is rejected with ILLEGAL_CMD. -/
def issue (w : Word) (s : State) : Host.Outcome State Fault Refusal :=
  match decode w with
  | .ok i => exec i s
  | .error _ => .next (raiseCmdError .illegalCmd s)

/-- `MemWrite(off, 4, v)` at an aligned offset of the window (rules R70, R76, R140): CMD issues a command, a reserved offset ignores
the write (rule R49). -/
def memWrite (off : Nat) (v : Word) (s : State) : Host.Outcome State Fault Refusal :=
  match regAt off with
  | some .cmd => issue v s
  | some r => .next (writeReg r v s)
  | none => .next s

/-- The bus's check of an access (rules R70, R71, R74, R344). An access outside the window is no access to the block (log 9); inside
it, anything but an aligned 32-bit access is a BusError (log 8). -/
def admitted (off width : Nat) (effect : Host.Outcome State Fault Refusal) : Host.Outcome State Fault Refusal :=
  if 512 ≤ off then .refused (.outsideWindow off)
  else if off % 4 = 0 ∧ width = 4 then effect
  else .fault (.busError off width)

/-- The values a script's RD statements have recorded for the register at `off`, oldest first (rule R107). -/
def readingsOf (off : Nat) (record : List Reading) : List Word :=
  (record.filter (fun r => r.off == off)).map Reading.value

/-- The value `<reg>` of a script: the one last recorded for the register at `off` (rule R107); none before the first RD of it. -/
def recorded (off : Nat) (record : List Reading) : Option Word := (readingsOf off record).getLast?

/-- The accesses that read result `i` (rules R110, R298). -/
def readResultOps (i : Nat) : List HostOp :=
  [.write (regOffset .resIndex) 4 (BitVec.ofNat 32 i), .read (regOffset .resKey) 4, .read (regOffset .resTime) 4]

/-- The accesses that read the results `0 .. n-1`, in that order (rules R110, R298). -/
def readOutOps (n : Nat) : List HostOp := (List.range n).flatMap readResultOps

/-- What the host does with the value recorded for the register at `src`; a script that has none to use is refused (log 17). -/
def withRecorded (src : Nat) (s : State) (use : Word → Host.Outcome State Fault Refusal) : Host.Outcome State Fault Refusal :=
  match recorded src s.record with
  | some v => use v
  | none => .refused (.unreadValue src)

/-- The effect of the host's transaction `t` on a state from whose script it is already taken (rules R107, R108). A POLL is one
read; it stays in the script until the read matches (log 7). A copy is the write of a recorded value. The loop over the results puts
the accesses of its rounds, as many as the value recorded for RES_COUNT says, at the head of the script (log 17). -/
def transact (t : HostOp) (s : State) : Host.Outcome State Fault Refusal :=
  match t with
  | .write off width v => admitted off width (memWrite off v s)
  | .read off width => admitted off width (.next { s with record := s.record ++ [⟨off, readWindow s off⟩] })
  | .poll off mask value =>
    admitted off 4 (.next (if readWindow s off &&& mask = value then s else { s with script := t :: s.script }))
  | .copy off src => withRecorded src s (fun v => admitted off 4 (memWrite off v s))
  | .readResults =>
    withRecorded (regOffset .resCount) s (fun n => .next { s with script := readOutOps n.toNat ++ s.script })

/-- The host's turn: its next transaction, or nothing once its script is at its end (rules R58, R108; log 6). -/
def hostTurn (s : State) : Host.Outcome State Fault Refusal :=
  match s.script with
  | [] => .next s
  | t :: rest => transact t { s with script := rest }

/-- The agent that takes the next turn, and the state with that turn used up: the head of the schedule, or a free draw (log 4). -/
def takeTurn (s : State) : Agent × State :=
  match s.schedule with
  | a :: rest => (a, { s with schedule := rest })
  | [] => (Config.freeAgent s.draws, { s with draws := s.draws + 1 })

/-- The turn of an agent (rule R58). -/
def agentTurn (a : Agent) (s : State) : Host.Outcome State Fault Refusal :=
  match a with
  | .host => hostTurn s
  | .commandUnit => .next (commandUnitTurn s)
  | .dispatcher j => .next (dispatcherTurn j s)
  | .lane j => .next (laneTurn j s)
  | .clock => .next (clockTurn s)
  | .platform => .next (platformTurn s)

/-- The host's transaction that issues the command word `w` of `nbits` bits: a write to CMD (rules R34, R140). A word too long for a
command has its low 32 bits written. -/
def fetchAccess (nbits w : Nat) : HostOp := .write 0x00C 4 (BitVec.ofNat 32 (w % 2 ^ nbits))

end Sys2Proof.Machine
end

