-- ==== Sys2Proof/Machine/Step.lean ====
section
/-!
DEFINITION. One step of the machine: one atomic step of one agent (rules R14, R58), under a configuration the model accepts (rules
R8, R149).
-/

namespace Sys2Proof.Machine

/-- One step. An ill-formed configuration is refused (rules R149, R166). -/
def step (s : State) : Host.Outcome State Fault Refusal :=
  if s.cfg.wellFormed then agentTurn (takeTurn s).1 (takeTurn s).2 else .refused .illFormedConfiguration

/-- `s` with the command word `w` as the host's next transaction and the host as the agent that moves next, so that the next step
issues exactly that command (rule R140; log 11). -/
def State.withFetchWord (s : State) (nbits w : Nat) : State :=
  { s with script := fetchAccess nbits w :: s.script, schedule := .host :: s.schedule }

end Sys2Proof.Machine
end

