-- ==== Sys2Proof/Machine/TextCodec.lean ====
section
/-!
DEFINITION. The text codec, a host-side composition of ENCRYPT and DECRYPT (45_text_codec.md, rules R250 to R255). A string is a list
of characters, a character's code point is its Unicode scalar value (rule R250, decision D3).
-/

namespace Sys2Proof.Machine

/-- Character to block: `seq_8(u mod 256)` (rule R250). A code point of 256 or more loses its upper part with no error (rule R255). -/
def charBlock (c : Char) : Block := seqOf 8 (c.toNat % 256)

/-- Block to character: code point `val(b)` (rule R251). -/
def blockChar (b : Block) : Char := Char.ofNat (val b)

/-- `encryptText(t, key)`: every character on its own, no chaining (rule R252). -/
def encryptText (t : Tables) (text : List Char) (key : Key) : List Char :=
  text.map (fun c => blockChar (encryptBlock t (charBlock c) key))

/-- `decryptText(t, key)` (rule R253). -/
def decryptText (t : Tables) (text : List Char) (key : Key) : List Char :=
  text.map (fun c => blockChar (decryptBlock t (charBlock c) key))

end Sys2Proof.Machine
end

