-- ==== Sys2Proof/Machine/HostScript.lean ====
section
/-!
DEFINITION. Host scripts: their encoding as bus transactions (rules R107, R108), the pseudo-instructions (rule R109), the host's
string validation (rule R345), and the scripts of the source's operations (rules R110, R254, R298, R382, R390).
-/

namespace Sys2Proof.Machine

/-- The host's errors of string validation (rule R345). The block sees no transaction. -/
inductive HostError where
  | invalidLength
  | invalidSymbol
deriving DecidableEq, Repr

/-- The number a string of '0' and '1' characters reads as, leftmost character most significant (rules R12, R109). -/
def binaryVal (chars : List Char) : Nat :=
  chars.foldl (fun acc c => 2 * acc + (if c = '1' then 1 else 0)) 0

/-- The host's check of a string that must have `n` characters '0' or '1': length first, then the characters (rule R345). -/
def validateString (n : Nat) (chars : List Char) : Except HostError Word :=
  if chars.length ≠ n then .error .invalidLength
  else if chars.all (fun c => c == '0' || c == '1') then .ok (BitVec.ofNat 32 (binaryVal chars))
  else .error .invalidSymbol

/-- The write a validated string gives: `WR <reg>, val(string)`, or the host error and no statement (rules R109, R345). -/
def setRegister (r : Reg) (n : Nat) (chars : List Char) : Except HostError (List Stmt) :=
  match validateString n chars with
  | .ok v => .ok [.wr r v]
  | .error e => .error e

/-- The expansion of a pseudo-instruction (rule R109). -/
def expandPseudo (p : Pseudo) : Except HostError (List Stmt) :=
  match p with
  | .command i => .ok [.wr .cmd (encode i)]
  | .wait => .ok [.poll .status 0x1#32 0x0#32]
  | .ack => .ok [.wr .status 0x6#32]
  | .setKey chars => setRegister .key 10 chars
  | .setBlk chars => setRegister .din 8 chars
  | .setTgt chars => setRegister .target 8 chars

/-- The bus transaction of a statement; the width is always 4 (rules R13, R107, R108). -/
def encodeStmt (s : Stmt) : HostOp :=
  match s with
  | .wr r v => .write (regOffset r) 4 v
  | .wrRead r src => .copy (regOffset r) (regOffset src)
  | .rd r => .read (regOffset r) 4
  | .poll r mask value => .poll (regOffset r) mask value

/-- The lines of the host's work that one script statement stands for (rules R108, R109). -/
def expandStmt (s : ScriptStmt) : Except HostError (List HostOp) :=
  match s with
  | .plain p => .ok [encodeStmt p]
  | .pseudo p => (expandPseudo p).map (List.map encodeStmt)
  | .readResults => .ok [.readResults]

/-- The transactions of a script (rule R108), up to the first statement whose string fails validation, and that statement's host error:
it emits no transaction (rules R109, R345), and the host's run of the script ends there. -/
def scriptTransactions : List ScriptStmt → List HostOp × Option HostError
  | [] => ([], none)
  | s :: rest =>
    match expandStmt s with
    | .ok ops => (ops ++ (scriptTransactions rest).1, (scriptTransactions rest).2)
    | .error e => ([], some e)

/-- The machine given a host script from outside, which has read nothing yet (log 6, 11, 17). -/
def loadScript (script : List ScriptStmt) (s : State) : State :=
  { s with script := (scriptTransactions script).1, record := [] }

/-- `encrypt(Block, Key)` as a script (rule R110). -/
def encryptScript (p k : List Char) : List ScriptStmt :=
  [.pseudo (.setKey k), .pseudo (.setBlk p), .pseudo (.command .encrypt), .pseudo .wait, .plain (.rd .dout)]

/-- `decrypt(Block, Key)` as a script (rule R110). -/
def decryptScript (c k : List Char) : List ScriptStmt :=
  [.pseudo (.setKey k), .pseudo (.setBlk c), .pseudo (.command .decrypt), .pseudo .wait, .plain (.rd .dout)]

/-- The block `encrypt` or `decrypt` returns: DOUT[7:0] as its script read it (rule R110). -/
def blockResult (record : List Reading) : Option Block := (recorded (regOffset .dout) record).map (BitVec.extractLsb' 0 8)

/-- `bruteForce(p, c)` as a script: the search, then the loop over the results below the RES_COUNT it read (rules R110, R298). -/
def bruteForceScript (p c : List Char) : List ScriptStmt :=
  [.pseudo (.setTgt p), .pseudo (.setBlk c), .pseudo (.command .search), .pseudo .wait, .plain (.rd .resCount), .readResults]

/-- What `bruteForce` returns: the pairs `(RES_KEY[9:0], RES_TIME)` as its script read them, in order (rule R298). -/
def searchResults (record : List Reading) : List SinkEntry :=
  List.zipWith (fun k t => ⟨k.extractLsb' 0 10, t⟩) (readingsOf (regOffset .resKey) record) (readingsOf (regOffset .resTime) record)

/-- The script of `encryptText` or `decryptText`, by the command `i` (rule R254). -/
def textScript (i : Instr) (k text : List Char) : List ScriptStmt :=
  .pseudo (.setKey k) :: text.flatMap (fun c =>
    [.plain (.wr .din (BitVec.ofNat 32 (c.toNat % 256))), .pseudo (.command i), .pseudo .wait, .plain (.rd .dout)])

/-- What `encryptText` or `decryptText` returns: character `i` is `chr(DOUT[7:0])` of the script's `i`-th read of DOUT (rule R254). -/
def textResult (record : List Reading) : List Char :=
  (readingsOf (regOffset .dout) record).map (fun w => blockChar (w.extractLsb' 0 8))

/-- The host's reads before it uses the block (rule R382, step 1). -/
def bootScript : List ScriptStmt := [.plain (.rd .id), .plain (.rd .param)]

/-- The acceptance protocol around a command: ACK, the operands, CMD, WAIT, and the read of STATUS to check (rule R390). -/
def protocolScript (operands : List ScriptStmt) (i : Instr) : List ScriptStmt :=
  .pseudo .ack :: operands ++ [.pseudo (.command i), .pseudo .wait, .plain (.rd .status)]

/-- The check of the protocol's last step: STATUS.ERR = 0 and STATUS.DONE = 1 (rule R390). -/
def protocolOk (status : Word) : Bool := !status.getLsbD 2 && status.getLsbD 1

end Sys2Proof.Machine
end

