-- ==== Sys2Proof/Machine/ScriptText.lean ====
section
/-!
DEFINITION. The text form of a host script (rules R107, R109): a line holds an optional label, then one statement, then an optional
comment. What the rules leave open of the text (white space, the comma, letters of a hexadecimal digit) is log 12.
-/

namespace Sys2Proof.Machine

/-- A token of a script line. -/
inductive Token where
  | word (chars : List Char)
  | str (chars : List Char)
  | comma
  | colon
  | badString
deriving DecidableEq, Repr

/-- Closes the word read so far, if there is one. -/
def flushWord (acc : List Char) (rest : List Token) : List Token :=
  if acc.isEmpty then rest else .word acc.reverse :: rest

/-- The tokens of a line: `acc` is the current word or string in reverse, `inString` whether a string is open. A comment begins at a
semicolon outside a string (rule R107). -/
def tokenize : List Char → List Char → Bool → List Token
  | [], _, true => [.badString]
  | [], acc, false => flushWord acc []
  | c :: cs, acc, true => if c = '"' then .str acc.reverse :: tokenize cs [] false else tokenize cs (c :: acc) true
  | c :: cs, acc, false =>
    if c = ';' then flushWord acc []
    else if c = '"' then flushWord acc (tokenize cs [] true)
    else if c = ',' then flushWord acc (.comma :: tokenize cs [] false)
    else if c = ':' then flushWord acc (.colon :: tokenize cs [] false)
    else if c = ' ' ∨ c = '\t' ∨ c = '\r' then flushWord acc (tokenize cs [] false)
    else tokenize cs (c :: acc) false

/-- The value of a digit in a base of at most 16. -/
def digitVal (base : Nat) (c : Char) : Option Nat :=
  let v :=
    if '0' ≤ c ∧ c ≤ '9' then some (c.toNat - '0'.toNat)
    else if 'a' ≤ c ∧ c ≤ 'f' then some (c.toNat - 'a'.toNat + 10)
    else if 'A' ≤ c ∧ c ≤ 'F' then some (c.toNat - 'A'.toNat + 10)
    else none
  match v with
  | some d => if d < base then some d else none
  | none => none

/-- The number a run of digits writes; `none` at a character that is no digit. -/
def digitsVal (base : Nat) : List Char → Nat → Option Nat
  | [], acc => some acc
  | c :: cs, acc =>
    match digitVal base c with
    | some d => digitsVal base cs (base * acc + d)
    | none => none

/-- A run of at least one digit. -/
def numeral (base : Nat) (cs : List Char) : Option Nat := if cs.isEmpty then none else digitsVal base cs 0

/-- `<imm>`: a 32-bit unsigned number in hexadecimal `0x`, binary `0b` or decimal (rule R107). -/
def parseImm (cs : List Char) : Option Word :=
  let n :=
    match cs with
    | '0' :: 'x' :: ds => numeral 16 ds
    | '0' :: 'b' :: ds => numeral 2 ds
    | ds => numeral 10 ds
  match n with
  | some v => if v < 2 ^ 32 then some (BitVec.ofNat 32 v) else none
  | none => none

/-- The register names but MATCH_MAP0 to MATCH_MAP31 (rule R107). -/
def plainRegNames : List (List Char × Reg) :=
  [("ID".toList, .id), ("PARAM".toList, .param), ("CTRL".toList, .ctrl), ("CMD".toList, .cmd),
   ("STATUS".toList, .status), ("KEY".toList, .key), ("DIN".toList, .din), ("TARGET".toList, .target),
   ("DOUT".toList, .dout), ("SUBKEYS".toList, .subkeys), ("PROGRESS".toList, .progress),
   ("RES_COUNT".toList, .resCount), ("RES_INDEX".toList, .resIndex), ("RES_KEY".toList, .resKey),
   ("RES_TIME".toList, .resTime), ("TIME".toList, .time)]

/-- `<reg>` (rule R107). MATCH_MAPj takes j in decimal, 0 to 31, with no leading zero. -/
def parseReg (cs : List Char) : Option Reg :=
  match plainRegNames.lookup cs with
  | some r => some r
  | none =>
    (List.range 32).findSome? (fun j =>
      if cs = "MATCH_MAP".toList ++ (Nat.toDigits 10 j) then some (.matchMap (Fin.ofNat 32 j)) else none)

/-- `<reg>` as the operand of a write: the value recorded for a register, its name between angle brackets (program P1). -/
def parseRead (cs : List Char) : Option Reg :=
  match cs with
  | '<' :: name => if name.getLast? = some '>' then parseReg name.dropLast else none
  | _ => none

/-- A write of an immediate or of a recorded value (rule R107). -/
def parseWrite (r : Reg) (operand : List Char) : Option ScriptStmt :=
  match parseRead operand, parseImm operand with
  | some src, _ => some (.plain (.wrRead r src))
  | none, some imm => some (.plain (.wr r imm))
  | none, none => none

/-- The pseudo-instructions of one word (rule R109). -/
def pseudoNames : List (List Char × Pseudo) :=
  [("NOP".toList, .command .nop), ("KEYSCHED".toList, .command .keysched), ("ENCRYPT".toList, .command .encrypt),
   ("DECRYPT".toList, .command .decrypt), ("SEARCH".toList, .command .search), ("ABORT".toList, .command .abort),
   ("WAIT".toList, .wait), ("ACK".toList, .ack)]

/-- A pseudo-instruction with a string operand (rule R109). -/
def parseSet (name chars : List Char) : Option ScriptStmt :=
  if name = "SETKEY".toList then some (.pseudo (.setKey chars))
  else if name = "SETBLK".toList then some (.pseudo (.setBlk chars))
  else if name = "SETTGT".toList then some (.pseudo (.setTgt chars))
  else none

/-- A statement from its tokens (rules R107, R109); mnemonics are upper case. -/
def parseStmt (ts : List Token) : Option ScriptStmt :=
  match ts with
  | [.word m] => (pseudoNames.lookup m).map .pseudo
  | [.word m, .str chars] => parseSet m chars
  | [.word m, .word r] => if m = "RD".toList then (parseReg r).map (fun reg => .plain (.rd reg)) else none
  | [.word m, .word r, .comma, .word v] =>
    match parseReg r with
    | some reg => if m = "WR".toList then parseWrite reg v else none
    | none => none
  | [.word m, .word r, .comma, .word k, .comma, .word v] =>
    match parseReg r, parseImm k, parseImm v with
    | some reg, some mask, some value => if m = "POLL".toList then some (.plain (.poll reg mask value)) else none
    | _, _, _ => none
  | _ => none

/-- The tokens of a line's statement: an optional label is dropped, a comment is gone already (rule R107). A label has no effect on
the block: no statement transfers control. -/
def lineTokens (line : List Char) : List Token :=
  match tokenize line [] false with
  | .word _ :: .colon :: rest => rest
  | ts => ts

/-- A line of a script (rule R107); `none` for a line that is no statement of its own. -/
def parseLine (line : List Char) : Option ScriptStmt := parseStmt (lineTokens line)

/-- `WR RES_INDEX, i`, the head of the host's loop over the results (program P2). -/
def isLoopHead (line : List Char) : Bool :=
  decide (lineTokens line = [.word "WR".toList, .word "RES_INDEX".toList, .comma, .word "i".toList])

/-- A script from its lines, each with whether it is a loop head; the three lines of the loop over the results are one statement
(rule R110, program P2). -/
def joinLines : List (Bool × Option ScriptStmt) → Option (List ScriptStmt)
  | [] => some []
  | (true, _) :: (_, some (.plain (.rd .resKey))) :: (_, some (.plain (.rd .resTime))) :: rest =>
    (joinLines rest).map (fun l => .readResults :: l)
  | (false, some s) :: rest => (joinLines rest).map (fun l => s :: l)
  | _ => none

/-- A script from its lines; `none` where a line is no script line. -/
def parseScript (lines : List (List Char)) : Option (List ScriptStmt) :=
  joinLines (lines.map (fun line => (isLoopHead line, parseLine line)))

end Sys2Proof.Machine
end

