-- ==== Sys2Proof/Safety.lean ====
section
/-!
DEFINITION. What counts as a well-kept state and a finished run: the invariants of rule R57 and those that make them inductive, the
meaning of a search's results (rules R290, R294), the end of a run (rule R398), the measure by which a work command progresses
(rule R296), and weakly fair runs (rule R394).
-/

namespace Sys2Proof.Machine

/-- The lanes that hold a key: `|{j : LANE[j] = EVAL(_)}|` (rule R57). -/
def busyLanes (s : State) : Nat := s.lanes.countP (fun l => l != .idle)

/-- The keys the lanes hold. -/
def laneKeys (s : State) : List Key :=
  s.lanes.filterMap (fun l => match l with | .idle => none | .eval k => some k)

/-- The keys of the result sink, in append order. -/
def sinkKeys (s : State) : List Key := s.sink.map SinkEntry.key

/-- The number of 1 bits of MAP (rule R57). -/
def mapOnes (s : State) : Nat := (List.range 1024).countP (fun k => s.map.getLsbD k)

/-- The key has been dispatched and its evaluation is finished. -/
def evaluatedKey (s : State) (k : Key) : Prop := k.toNat < s.nextKey ∧ k ∉ laneKeys s

/-- The five invariants of rule R57, word for word. -/
structure SpecInvariants (s : State) : Prop where
  /-- 1: `internal.OP = SEARCH` or every lane is IDLE. -/
  lanesIdle : s.op = some .search ∨ ∀ l ∈ s.lanes, l = .idle
  /-- 2: while `internal.OP = SEARCH`, EVALUATED and the busy lanes add up to NEXT_KEY. -/
  dispatchedSplit : s.op = some .search → s.evaluated + busyLanes s = s.nextKey
  /-- 3: COUNT is the number of 1 bits of MAP. -/
  countIsOnes : s.count = mapOnes s
  /-- 3: the keys in SINK are pairwise distinct. -/
  sinkDistinct : (sinkKeys s).Nodup
  /-- 4: each key in SINK is less than NEXT_KEY. -/
  sinkBelow : ∀ k ∈ sinkKeys s, k.toNat < s.nextKey
  /-- 5: no cancel flag without a command. -/
  noStaleCancel : s.op = none → s.cancel = false

/-- The invariant of every step: rule R57 and what makes it inductive. DEDUCED from the rules named at each clause. -/
structure Inv (s : State) : Prop where
  /-- The configuration is one the model runs (rules R8, R166). -/
  config : s.cfg.wellFormed = true
  /-- There are N_LANES lanes (rule R54). -/
  laneCount : s.lanes.length = s.cfg.nLanes
  /-- Rule R57. -/
  spec : SpecInvariants s
  /-- EVALUATED and the busy lanes add up to NEXT_KEY after a search too (rules R41, R286). -/
  allSplit : s.evaluated + busyLanes s = s.nextKey
  /-- NEXT_KEY is 0 to 1024 (rule R50). -/
  nextKeyBound : s.nextKey ≤ 1024
  /-- The lanes hold distinct keys (rule R278: each key is dispatched once). -/
  lanesDistinct : (laneKeys s).Nodup
  /-- The lanes hold keys already dispatched (rule R278). -/
  lanesBelow : ∀ k ∈ laneKeys s, k.toNat < s.nextKey
  /-- A key in a lane is not in the sink yet (rule R280). -/
  lanesNotInSink : ∀ k ∈ laneKeys s, k ∉ sinkKeys s
  /-- MAP is the set of the keys in the sink (rule R48). -/
  mapIsSink : ∀ k : Key, s.map.getLsbD k.toNat = true ↔ k ∈ sinkKeys s
  /-- COUNT is the length of the sink (rule R45). -/
  countIsLength : s.count = s.sink.length
  /-- The cancel flag is set only during a SEARCH (rules R284, R286). -/
  cancelOnlySearch : s.cancel = true → s.op = some .search
  /-- LASTOP names the command in flight (rule R143). -/
  lastopInFlight : ∀ c, s.op = some c → s.lastop = c.opcode
  /-- DONE and ABORTED are 0 while a command is in flight (rules R143, R148). -/
  notDoneWhileBusy : s.op ≠ none → s.done = false ∧ s.aborted = false
  /-- ERR is set exactly when ERRCODE is not NONE (rules R146, R357). -/
  errHasCode : s.err = true ↔ s.errcode ≠ 0#4
  /-- ERRCODE is NONE, INVALID_LENGTH, ILLEGAL_CMD or BUSY; 2 and 5 to 15 are never written (rule R340). -/
  errcodeLegal : s.errcode = 0#4 ∨ s.errcode = 1#4 ∨ s.errcode = 3#4 ∨ s.errcode = 4#4
  /-- LASTOP is 0, before the first acceptance, or an opcode 1 to 4 (rule R35). -/
  lastopLegal : s.lastop.toNat ≤ 4
  /-- While the last accepted command is a SEARCH that has ended, it ended complete or ABORTED (rule R286). -/
  endedSearch : s.lastop = 4#4 → s.op = none → (s.aborted = true ↔ s.nextKey < 1024)
  /-- While the last accepted command is a SEARCH, MAP holds exactly the evaluated keys that match (rules R280, R290). -/
  searchMap : s.lastop = 4#4 → ∀ k : Key,
    s.map.getLsbD k.toNat = true ↔ evaluatedKey s k ∧ keyMatches s.cfg.tables s.opPt s.opIn k = true
  /-- With one lane the sink is ascending, and the lane's key is above it (rules R278, R280, R290). -/
  singleLaneAscending : s.cfg.nLanes = 1 → (sinkKeys s ++ laneKeys s).Pairwise (fun a b => a.toNat < b.toNat)

/-- The timestamps of the sink are non-decreasing in append order, and none is above TIME (rule R288). -/
def timesOrdered (s : State) : Prop :=
  (s.sink.map (fun e => e.time.toNat) ++ [s.time.toNat]).Pairwise (fun a b => a ≤ b)

/-- The host's script has taken effect to its last statement (rule R398). -/
def runEnded (s : State) : Bool := s.script.isEmpty

/-- `internal.OP = NONE` (rule R398). -/
def quiescent (s : State) : Bool := !s.busy

/-- The end of a run that is final (rule R398). -/
def finalState (s : State) : Bool := runEnded s && quiescent s

/-- How many steps of the command unit, the dispatcher and the lanes the command in flight can still take: two for each key not
dispatched yet, one for each key in a lane, one for the completion (rules R148, R286, R296). -/
def remainingSteps (s : State) : Nat :=
  match s.op with
  | none => 0
  | some .search => 2 * (1024 - s.nextKey) + busyLanes s + 1
  | some _ => 1

/-- The agents whose fairness a completion rests on (rule R394): the command unit, the dispatcher, whichever lane it chooses, and every
lane. -/
inductive Worker where
  | commandUnit
  | dispatcher
  | lane (j : Nat)
deriving DecidableEq, Repr

/-- The worker whose turn a turn is. -/
def workerOf (a : Agent) : Option Worker :=
  match a with
  | .commandUnit => some .commandUnit
  | .dispatcher _ => some .dispatcher
  | .lane j => some (.lane j)
  | .host => none
  | .clock => none
  | .platform => none

/-- The turn is a worker's. -/
def isWorker (a : Agent) : Bool := (workerOf a).isSome

/-- Some step of the worker is enabled. -/
def workerReady (w : Worker) (s : State) : Prop := ∃ a, workerOf a = some w ∧ agentEnabled a s = true

/-- An unending run: the agents that take the turns, and the states before each turn (rules R14, R58). The turns may be those of any
agent in any order, idle turns among them. -/
def IsRun (turns : Nat → Agent) (states : Nat → State) : Prop :=
  ∀ n, step { states n with schedule := [turns n] } = .next (states (n + 1))

/-- Weak fairness: every worker that stays enabled takes its step in the end (rule R394). -/
def WeaklyFair (turns : Nat → Agent) (states : Nat → State) : Prop :=
  ∀ (w : Worker) (n : Nat), (∀ m, n ≤ m → workerReady w (states m)) →
    ∃ m, n ≤ m ∧ workerOf (turns m) = some w ∧ agentEnabled (turns m) (states m) = true

end Sys2Proof.Machine
end

