-- ==== Sys2Proof/Certificates/Slice0/Obligations.lean ====
section
/-!
DEFINITION. The statements for the provers. Each docstring names the rule of the spec it formalises. A statement over a state `s` with
`Inv s` holds along every run from a reset block under every schedule (`StepKeepsTheInvariant`, `InvariantHoldsAfterReset`).
-/

open Sys2Proof Sys2Proof.Machine

/-! ## Reset -/

/-- Rule R59: the value of every piece of state after reset, for every configuration. -/
def Obligations.ResetLeavesTheResetValues : Prop :=
  ∀ c : Config,
    let s := State.resetWith c
    s.cfg = c ∧ ctrlWord s = 0x00000000#32 ∧ statusWord s = 0x00000000#32 ∧
    s.key = 0#32 ∧ s.din = 0#32 ∧ s.target = 0#32 ∧ readWindow s 0x020 = 0#32 ∧ readWindow s 0x024 = 0#32 ∧
    readWindow s 0x030 = 0#32 ∧ s.op = none ∧ s.opKey = 0#10 ∧ s.opIn = 0#8 ∧ s.opPt = 0#8 ∧
    s.nextKey = 0 ∧ s.evaluated = 0 ∧ s.cancel = false ∧ s.lanes.length = c.nLanes ∧ (∀ l ∈ s.lanes, l = .idle) ∧
    s.sink = [] ∧ s.count = 0 ∧ s.map = 0#1024 ∧ s.time = 0#32 ∧ irq s = false

/-- 10_state.md, register map: in every state ID reads its constant (rule R31) and PARAM the configuration, as a number (rule R32);
after reset every other admitted offset of the window reads 0. -/
def Obligations.ResetWindowReads : Prop :=
  (∀ s : State,
    readWindow s 0x000 = 0x53444553#32 ∧
    (1 ≤ s.cfg.nLanes → s.cfg.nLanes ≤ 1024 →
      (readWindow s 0x004).toNat = s.cfg.nLanes + 0x20 * 2 ^ 16 + (tablesId s.cfg.tables).toNat * 2 ^ 24)) ∧
  ∀ c : Config,
    readWindow (State.resetWith c) 0x000 = 0x53444553#32 ∧
    (1 ≤ c.nLanes → c.nLanes ≤ 1024 →
      (readWindow (State.resetWith c) 0x004).toNat =
        c.nLanes + 0x20 * 2 ^ 16 + (tablesId c.tables).toNat * 2 ^ 24) ∧
    ∀ off, off < 512 → off % 4 = 0 → off ≠ 0x000 → off ≠ 0x004 → readWindow (State.resetWith c) off = 0#32

/-- Rule R380: the reset step, taken at any time, gives every piece of state its reset value in one step: the command in flight is gone,
with no DONE, `irq` is deasserted and the tables are kept. That the host's script and record and the schedule, the model's own fields,
stay is the model's choice (log 4, 6, DESIGN CHOICE). -/
def Obligations.ResetStepTakesTheResetValues : Prop :=
  ∀ (s : State) (rest : List Agent), s.cfg.wellFormed = true → s.schedule = .platform :: rest →
    ∃ t, step s = .next t ∧
      t = { State.resetWith s.cfg with
            script := s.script, record := s.record, schedule := rest, draws := s.draws } ∧
      t.op = none ∧ t.done = false ∧ irq t = false ∧ t.cfg.tables = s.cfg.tables

/-- Rule R59, and rule R57 (the spec's own inference) with what makes it inductive: every block that the model runs meets the invariant
after reset, `State.reset` too. -/
def Obligations.InvariantHoldsAfterReset : Prop :=
  (∀ c : Config, c.wellFormed = true → Inv (State.resetWith c)) ∧ Inv State.reset

/-! ## Decoding and issue -/

/-- Rules R104, R105: the command words, written out; all ten reserved opcodes; words with a reserved bit set. -/
def Obligations.CommandWordsDecode : Prop :=
  decode 0x00000000#32 = .ok .nop ∧ decode 0x00000001#32 = .ok .keysched ∧ decode 0x00000002#32 = .ok .encrypt ∧
  decode 0x00000003#32 = .ok .decrypt ∧ decode 0x00000004#32 = .ok .search ∧ decode 0x00000005#32 = .ok .abort ∧
  (∀ op : BitVec 4, 6 ≤ op.toNat → decode (0#28 ++ op) = .error .reservedOpcode) ∧
  decode 0x00000010#32 = .error .reservedBits ∧ decode 0x80000002#32 = .error .reservedBits

/-- Rule R106: the decoder is total on 32-bit words and is the inverse of the encoder: a word decodes to a command exactly when it is
that command's word, and every other word is illegal, for the reason that holds of it. -/
def Obligations.DecoderIsTheInverseOfTheEncoder : Prop :=
  (∀ w : Word, rsvzField w ≠ 0#28 → decode w = .error .reservedBits) ∧
  (∀ w : Word, rsvzField w = 0#28 → 6 ≤ (opField w).toNat → decode w = .error .reservedOpcode) ∧
  ∀ (w : Word) (i : Instr), decode w = .ok i ↔ w = encode i

/-- Rule R140: a host write of `w` to CMD issues `w`, the whole of the issue in that one step: where `w` decodes to a command, the step
is `exec` of it, at the state from which the host's transaction and the turn are used up; where it does not, the rejection. -/
def Obligations.StepIssuesTheDecodedCommand : Prop :=
  ∀ (s : State) (w : Word) (rest : List HostOp) (sched : List Agent), s.cfg.wellFormed = true →
    s.schedule = .host :: sched → s.script = .write 0x00C 4 w :: rest →
    (∀ i, decode w = .ok i → step s = exec i { s with script := rest, schedule := sched }) ∧
    (∀ e, decode w = .error e →
      step s = .next { s with script := rest, schedule := sched, err := true, errcode := 3#4 })

/-- 30_encoding.md, 40_command_unit.md and log 11 (the model's choice of how a command word is placed): after `withFetchWord` the very
next step issues that word, at the state as it was. -/
def Obligations.FetchedWordIsIssuedNext : Prop :=
  ∀ (s : State) (nbits w : Nat), s.cfg.wellFormed = true → w % 2 ^ nbits < 2 ^ 32 →
    step (s.withFetchWord nbits w) = issue (BitVec.ofNat 32 (w % 2 ^ nbits)) s

/-- Rule R102: a word with `w[31:4] != 0` is illegal whatever its OP, and so are the reserved opcodes (rule R105): rejected with
ILLEGAL_CMD, nothing else changes. -/
def Obligations.IllegalWordIsRejected : Prop :=
  ∀ (w : Word) (s : State), (rsvzField w ≠ 0#28 ∨ 6 ≤ (opField w).toNat) →
    issue w s = .next { s with err := true, errcode := 3#4 }

/-- Rule R352: the first failing check decides, ILLEGAL_CMD, then BUSY, then INVALID_LENGTH; an issue that fails none reports no error.
-/
def Obligations.FirstFailingCheckDecides : Prop :=
  ∀ (w : Word) (s : State),
    (∀ e, decode w = .error e → issue w s = .next { s with err := true, errcode := 3#4 }) ∧
    (∀ c : WorkCmd, decode w = .ok c.instr → s.op ≠ none → issue w s = .next { s with err := true, errcode := 4#4 }) ∧
    (∀ c : WorkCmd, decode w = .ok c.instr → s.op = none → widthsOk c s = false →
      issue w s = .next { s with err := true, errcode := 1#4 }) ∧
    (∀ c : WorkCmd, decode w = .ok c.instr → s.op = none → widthsOk c s = true →
      ∃ t, issue w s = .next t ∧ t.op = some c ∧ t.err = s.err ∧ t.errcode = s.errcode) ∧
    (decode w = .ok .nop ∨ decode w = .ok .abort → ∃ t, issue w s = .next t ∧ t.err = s.err ∧ t.errcode = s.errcode)

/-- Rule R142: a work command issued while another is in flight is rejected with BUSY (ERRCODE 4) and is not deferred: nothing else
changes. -/
def Obligations.BusyRejectsWorkCommands : Prop :=
  ∀ (s : State), s.op ≠ none →
    exec .keysched s = .next { s with err := true, errcode := 4#4 } ∧
    exec .encrypt s = .next { s with err := true, errcode := 4#4 } ∧
    exec .decrypt s = .next { s with err := true, errcode := 4#4 } ∧
    exec .search s = .next { s with err := true, errcode := 4#4 }

/-- Rules R144, R341: an operand register with a bit set above its field rejects the commands that read it with INVALID_LENGTH (ERRCODE
1), and nothing else changes. -/
def Obligations.OverwideOperandsAreRejected : Prop :=
  ∀ (s : State), s.op = none →
    let rejected : Host.Outcome State Fault Refusal := .next { s with err := true, errcode := 1#4 }
    (s.key.extractLsb' 10 22 ≠ 0#22 → exec .keysched s = rejected ∧ exec .encrypt s = rejected ∧ exec .decrypt s = rejected) ∧
    (s.din.extractLsb' 8 24 ≠ 0#24 → exec .encrypt s = rejected ∧ exec .decrypt s = rejected ∧ exec .search s = rejected) ∧
    (s.target.extractLsb' 8 24 ≠ 0#24 → exec .search s = rejected)

/-- Rule R146: a rejection sets ERR and writes the code; nothing else changes: not the command in flight, not an operand register, a
latched copy or a result, and no register of the window but STATUS. `irq` rises if ERR_IE = 1 (rule R355). -/
def Obligations.RejectionChangesOnlyErrAndErrcode : Prop :=
  ∀ (e : CmdError) (s : State),
    raiseCmdError e s = { s with err := true, errcode := e.code } ∧
    irq (raiseCmdError e s) = ((s.doneIe && s.done) || s.errIe) ∧
    ∀ off, off < 512 → off % 4 = 0 → off ≠ 0x010 → readWindow (raiseCmdError e s) off = readWindow s off

/-! ## The commands -/

/-- Rule R150: NOP changes no state, busy or not; its word is 0; a word with OP = 0 and a reserved bit set is no NOP but is rejected. -/
def Obligations.NopChangesNothing : Prop :=
  encode .nop = 0x00000000#32 ∧ (∀ s : State, exec .nop s = .next s) ∧
  ∀ (w : Word) (s : State), opField w = 0#4 → rsvzField w ≠ 0#28 →
    issue w s = .next { s with err := true, errcode := 3#4 }

/-- Rule R284: ABORT sets the cancel flag of a running SEARCH and does nothing otherwise; it is never rejected for BUSY. -/
def Obligations.AbortSetsTheCancelFlagOfASearch : Prop :=
  (∀ s : State, s.op = some .search → exec .abort s = .next { s with cancel := true }) ∧
  (∀ s : State, s.op ≠ some .search → exec .abort s = .next s)

/-- Rules R143, R182: KEYSCHED is accepted where no command is in flight and KEY fits, and the command unit's step then writes the
subkey pair of the latched key to SUBKEYS, K1 in bits 7:0 and K2 in bits 15:8. Nothing else changes; DOUT does not. -/
def Obligations.KeyschedWritesTheSubkeys : Prop :=
  ∀ s : State, s.op = none → s.key.extractLsb' 10 22 = 0#22 →
    let k : Key := s.key.extractLsb' 0 10
    let t : State := { s with op := some .keysched, opKey := k, done := false, aborted := false, lastop := 1#4 }
    let u : State :=
      { t with
        op := none, done := true
        subK1 := (keySchedule s.cfg.tables k).1, subK2 := (keySchedule s.cfg.tables k).2 }
    exec .keysched s = .next t ∧ commandUnitTurn t = u ∧
    readWindow u 0x024 = ((keySchedule s.cfg.tables k).2.setWidth 32 <<< 8) ||| (keySchedule s.cfg.tables k).1.setWidth 32

/-- Rules R143, R224: ENCRYPT is accepted where no command is in flight and KEY and DIN fit, and the command unit's step then writes
`Encrypt(DIN, KEY)` of the latched operands to DOUT and the subkey pair to SUBKEYS. Nothing else changes; DIN does not. -/
def Obligations.EncryptWritesTheCiphertext : Prop :=
  ∀ s : State, s.op = none → s.key.extractLsb' 10 22 = 0#22 → s.din.extractLsb' 8 24 = 0#24 →
    let k : Key := s.key.extractLsb' 0 10
    let p : Block := s.din.extractLsb' 0 8
    let t : State :=
      { s with op := some .encrypt, opKey := k, opIn := p, done := false, aborted := false, lastop := 2#4 }
    let u : State :=
      { t with
        op := none, done := true, dout := encryptBlock s.cfg.tables p k
        subK1 := (keySchedule s.cfg.tables k).1, subK2 := (keySchedule s.cfg.tables k).2 }
    exec .encrypt s = .next t ∧ commandUnitTurn t = u ∧
    readWindow u 0x020 = (encryptBlock s.cfg.tables p k).setWidth 32

/-- Rules R143, R226: DECRYPT likewise, with `Decrypt(DIN, KEY)` in DOUT and the subkeys in the same fields as ENCRYPT. -/
def Obligations.DecryptWritesThePlaintext : Prop :=
  ∀ s : State, s.op = none → s.key.extractLsb' 10 22 = 0#22 → s.din.extractLsb' 8 24 = 0#24 →
    let k : Key := s.key.extractLsb' 0 10
    let c : Block := s.din.extractLsb' 0 8
    let t : State :=
      { s with op := some .decrypt, opKey := k, opIn := c, done := false, aborted := false, lastop := 3#4 }
    let u : State :=
      { t with
        op := none, done := true, dout := decryptBlock s.cfg.tables c k
        subK1 := (keySchedule s.cfg.tables k).1, subK2 := (keySchedule s.cfg.tables k).2 }
    exec .decrypt s = .next t ∧ commandUnitTurn t = u ∧
    readWindow u 0x020 = (decryptBlock s.cfg.tables c k).setWidth 32

/-- Rules R143, R276: SEARCH is accepted where no command is in flight and DIN and TARGET fit, whatever KEY holds: it latches the known
ciphertext and plaintext and empties the results, the counters, the cancel flag and TIME. Nothing else changes. -/
def Obligations.SearchStarts : Prop :=
  ∀ s : State, s.op = none → s.din.extractLsb' 8 24 = 0#24 → s.target.extractLsb' 8 24 = 0#24 →
    exec .search s = .next
      { s with
        op := some .search, opIn := s.din.extractLsb' 0 8, opPt := s.target.extractLsb' 0 8
        nextKey := 0, evaluated := 0, cancel := false, sink := [], count := 0, map := 0#1024, time := 0#32
        done := false, aborted := false, lastop := 4#4 }

/-- Rules R79, R148: a completion step of the command unit makes all the effects of a cipher command visible in one step, computed from
the latched copies. -/
def Obligations.CompletionIsOneStep : Prop :=
  ∀ (s : State) (rest : List Agent), s.cfg.wellFormed = true → s.schedule = .commandUnit :: rest →
    let ks := keySchedule s.cfg.tables s.opKey
    (s.op = some .keysched →
      step s = .next { s with schedule := rest, subK1 := ks.1, subK2 := ks.2, op := none, done := true }) ∧
    (s.op = some .encrypt →
      step s = .next
        { s with
          schedule := rest, dout := encryptBlock s.cfg.tables s.opIn s.opKey
          subK1 := ks.1, subK2 := ks.2, op := none, done := true }) ∧
    (s.op = some .decrypt →
      step s = .next
        { s with
          schedule := rest, dout := decryptBlock s.cfg.tables s.opIn s.opKey
          subK1 := ks.1, subK2 := ks.2, op := none, done := true })

/-- Rules R36, R83, R143: no step of the block reads KEY, DIN or TARGET after acceptance: with other values in them, every internal
agent does the same to everything else. -/
def Obligations.CompletionReadsOnlyLatchedOperands : Prop :=
  ∀ (s : State) (a : Agent) (key din target : Word), a ≠ .host → a ≠ .platform →
    ∃ t, agentTurn a s = .next t ∧ t.key = s.key ∧ t.din = s.din ∧ t.target = s.target ∧
      agentTurn a { s with key := key, din := din, target := target } =
        .next { t with key := key, din := din, target := target }

/-! ## The datapath -/

/-- Rule R160: element `i` of `permute(s, T)` is element `T<i> - 1` of `s`; and the rule's example. -/
def Obligations.PermuteReadsThroughTheTable : Prop :=
  (∀ (m n : Nat) (s : BitVec m) (t : List Nat), t.length = n → (∀ e ∈ t, 1 ≤ e ∧ e ≤ m) →
    ∀ i, i < n → elt (permute n s t) i = elt s (t.getD i 0 - 1)) ∧
  permute 8 0b1010#4 [4, 1, 2, 3, 2, 3, 4, 1] = 0b01010101#8

/-- Rule R162: rotation left by elements; and rule R163's form of it in register terms for the 5-bit halves (the spec's own inference
from rules R162 and R12). -/
def Obligations.RotationMovesElementsLeft : Prop :=
  (∀ (m : Nat) (s : BitVec m) (n i : Nat), i < m → elt (rotl s n) i = elt s ((i + n) % m)) ∧
  ∀ (v : BitVec 5) (n : Nat), (n = 1 ∨ n = 2) →
    (rotl v n).toNat = ((v.toNat <<< n) ||| (v.toNat >>> (5 - n))) % 32

/-- Rule R201 (the spec's own inference from rules R200 and R12): in register terms the outer bits of an S-box input select the row and
the inner bits the column. -/
def Obligations.SboxOuterBitsSelectTheRow : Prop :=
  ∀ (b : List (List Nat)) (v : BitVec 4),
    sbox b v =
      seqOf 2 ((b.getD (2 * (v.getLsbD 3).toNat + (v.getLsbD 0).toNat) []).getD
        (2 * (v.getLsbD 2).toNat + (v.getLsbD 1).toNat) 0)

/-- Rule R184: whatever the tables, the all-zeros key has the subkey pair (0x00, 0x00) and the all-ones key (0xFF, 0xFF): the two pairs
differ from each other and K1 = K2 within each; encryption under each of the two keys is invertible. -/
def Obligations.BoundaryKeysGiveConstantSubkeys : Prop :=
  ∀ t : Tables, t.wellFormed = true →
    keySchedule t 0x000#10 = (0x00#8, 0x00#8) ∧ keySchedule t 0x3FF#10 = (0xFF#8, 0xFF#8) ∧
    ∀ key : Key, key = 0x000#10 ∨ key = 0x3FF#10 → Function.Bijective (fun p : Block => encryptBlock t p key)

/-- Rules R220, R221 and conflict C1: before the last permutation the cipher's output is `(R0 XOR F(R1, kb)) ++ R1`, the right half
first, with the second F applied to R1. -/
def Obligations.RoundsOutputIsRightThenLeft : Prop :=
  ∀ (t : Tables) (blk ka kb : Block), t.wellFormed = true →
    let u := permute 8 blk t.ip
    let r1 := leftHalf 4 u ^^^ roundF t (rightHalf 4 u) ka
    permute 8 (rounds t blk ka kb) t.ip = (rightHalf 4 u ^^^ roundF t r1 kb) ++ r1

/-- Rule R228: for every well-formed table set, every block and every key, decryption undoes encryption and encryption undoes
decryption, so encryption under a key is a bijection on the blocks. -/
def Obligations.DecryptInvertsEncrypt : Prop :=
  ∀ (t : Tables) (key : Key), t.wellFormed = true →
    (∀ p : Block, decryptBlock t (encryptBlock t p key) key = p) ∧
    (∀ c : Block, encryptBlock t (decryptBlock t c key) key = c) ∧
    Function.Bijective (fun p : Block => encryptBlock t p key)

/-! ## The search -/

/-- Rule R272 (the spec's own inference from rules R270 and R228): a key is in the search set of (p, c) exactly when it encrypts p to c.
-/
def Obligations.SearchSetIsTheEncryptingKeys : Prop :=
  ∀ (t : Tables) (p c : Block) (k : Key), t.wellFormed = true →
    (k ∈ searchSet t p c ↔ encryptBlock t p k = c)

/-- Rule R278: the dispatch step that chooses the idle lane `j`, while a SEARCH is not cancelled and keys are left. Where one of the
four conditions fails, after an ABORT in particular (rule R284), the dispatcher's turn changes nothing: that such a turn is spent
without effect is log 5 (DEDUCED). -/
def Obligations.DispatchHandsOutTheNextKey : Prop :=
  (∀ (s : State) (j : Nat) (rest : List Agent), s.cfg.wellFormed = true → s.schedule = .dispatcher j :: rest →
    s.op = some .search → s.cancel = false → s.nextKey < 1024 → s.lanes[j]? = some .idle →
    step s = .next
      { s with
        schedule := rest, lanes := s.lanes.set j (.eval (BitVec.ofNat 10 s.nextKey)), nextKey := s.nextKey + 1 }) ∧
  ∀ (s : State) (j : Nat),
    (s.op ≠ some .search ∨ s.cancel = true ∨ 1024 ≤ s.nextKey ∨ s.lanes[j]? ≠ some .idle) →
    agentTurn (.dispatcher j) s = .next s

/-- Rule R280: the lane step, one atomic step, with a match and without. -/
def Obligations.LaneStepEvaluatesItsKey : Prop :=
  ∀ (s : State) (j : Nat) (k : Key) (rest : List Agent), s.cfg.wellFormed = true → s.schedule = .lane j :: rest →
    s.lanes[j]? = some (.eval k) →
    (decryptBlock s.cfg.tables s.opIn k = s.opPt →
      step s = .next
        { s with
          schedule := rest, sink := s.sink ++ [⟨k, s.time⟩], count := s.count + 1
          map := s.map ||| BitVec.twoPow 1024 k.toNat
          evaluated := s.evaluated + 1, lanes := s.lanes.set j .idle }) ∧
    (decryptBlock s.cfg.tables s.opIn k ≠ s.opPt →
      step s = .next { s with schedule := rest, evaluated := s.evaluated + 1, lanes := s.lanes.set j .idle })

/-- Rule R286: the join step, once every lane is idle and every key is dispatched or the search is cancelled. While a lane holds a key,
or keys are left and the search is not cancelled, the command unit's turn changes nothing (that such a turn is spent without effect is
log 5, DEDUCED). -/
def Obligations.JoinEndsTheSearch : Prop :=
  (∀ (s : State) (rest : List Agent), s.cfg.wellFormed = true → s.schedule = .commandUnit :: rest →
    s.op = some .search → (∀ l ∈ s.lanes, l = .idle) → (s.nextKey = 1024 ∨ s.cancel = true) →
    step s = .next
      { s with
        schedule := rest, aborted := s.cancel && decide (s.nextKey < 1024), cancel := false, op := none, done := true }) ∧
  ∀ s : State, s.op = some .search →
    ((∃ l ∈ s.lanes, l ≠ .idle) ∨ (s.nextKey ≠ 1024 ∧ s.cancel = false)) → agentTurn .commandUnit s = .next s

/-- Rules R47, R288: a clock step adds 1 to TIME, modulo 2^32, while a SEARCH is BUSY; otherwise TIME changes only to 0, at a SEARCH's
acceptance and at reset. -/
def Obligations.TimeAdvancesOnlyDuringASearch : Prop :=
  (∀ s : State, s.op = some .search → agentTurn .clock s = .next { s with time := s.time + 1#32 }) ∧
  ∀ s t : State, step s = .next t →
    t.time = s.time ∨ (s.op = some .search ∧ (takeTurn s).1 = .clock ∧ t.time = s.time + 1#32) ∨
    (t.time = 0#32 ∧ ((s.op = none ∧ t.op = some .search) ∨ (takeTurn s).1 = .platform))

/-- Rule R288: timestamps are non-decreasing along the sink in append order: they are after reset, and stay so in every step in which
TIME does not wrap (a step that empties the sink may set TIME back). -/
def Obligations.TimestampsStayOrdered : Prop :=
  (∀ c : Config, timesOrdered (State.resetWith c)) ∧
  ∀ s t : State, timesOrdered s → step s = .next t → (s.time.toNat ≤ t.time.toNat ∨ t.sink = []) → timesOrdered t

/-- Rule R57 (the spec's own inference, [derived: from rule R54 and 46_brute_force.md rules R276 to R286]): every step keeps the five
invariants, within the inductive invariant `Inv`, whose other clauses are DEDUCED from the rules named at them. -/
def Obligations.StepKeepsTheInvariant : Prop :=
  ∀ s t : State, Inv s → step s = .next t → Inv t

/-- Rule R290 (the spec's own inference from rules R276 to R286): a SEARCH that has reached its join with ABORTED = 0 (LASTOP is 4,
nothing is in flight) has found exactly the search set of its latched pair, under every schedule: MAP, RES_COUNT, the keys of the sink,
PROGRESS; with one lane the sink is ascending. -/
def Obligations.FinishedSearchFindsExactlyTheSearchSet : Prop :=
  ∀ s : State, Inv s → s.lastop = 4#4 → s.op = none → s.aborted = false →
    let found := searchSet s.cfg.tables s.opPt s.opIn
    (∀ k : Key, s.map.getLsbD k.toNat = true ↔ k ∈ found) ∧
    (readWindow s 0x02C).toNat = found.length ∧
    (sinkKeys s).Perm found ∧
    s.nextKey = 1024 ∧ s.evaluated = 1024 ∧ readWindow s 0x028 = 0x04000400#32 ∧
    (s.cfg.nLanes = 1 → (sinkKeys s).Pairwise (fun a b => a.toNat < b.toNat))

/-- Rule R294 (the spec's own inference from rules R278, R280 and R286): a SEARCH that has reached its join with ABORTED = 1 has
evaluated exactly the keys below `n = PROGRESS.DISPATCHED`, where `n < 1024`, and found exactly the members of the search set among
them. -/
def Obligations.AbortedSearchFindsExactlyThePrefix : Prop :=
  ∀ s : State, Inv s → s.lastop = 4#4 → s.op = none → s.aborted = true →
    s.nextKey < 1024 ∧ s.evaluated = s.nextKey ∧
    ((readWindow s 0x028).extractLsb' 0 11).toNat = s.nextKey ∧
    (∀ k : Key, evaluatedKey s k ↔ k.toNat < s.nextKey) ∧
    ∀ k : Key, s.map.getLsbD k.toNat = true ↔ (k.toNat < s.nextKey ∧ k ∈ searchSet s.cfg.tables s.opPt s.opIn)

/-- Rule R394 and the rules of the steps: while a command is in flight, some step of the command unit, the dispatcher or a lane is
enabled, so that under weak fairness of these agents the block cannot hang. -/
def Obligations.BusyBlockHasAnEnabledWorker : Prop :=
  ∀ s : State, Inv s → s.op ≠ none → ∃ a, isWorker a = true ∧ agentEnabled a s = true

/-- Rules R296, R394: each step of a worker that is enabled uses up one of the finitely many steps the command in flight can still take,
and no step of any agent adds to them. -/
def Obligations.WorkerStepsAreUsedUp : Prop :=
  ∀ s : State, Inv s →
    (∀ a, isWorker a = true → agentEnabled a s = true →
      ∃ t, agentTurn a s = .next t ∧ remainingSteps t < remainingSteps s) ∧
    (s.op ≠ none → ∀ t, step s = .next t → remainingSteps t ≤ remainingSteps s)

/-- Rules R296, R394: from every well-kept state the workers' steps alone bring the command in flight to its end, within the steps it
has left (2049 for a SEARCH just accepted); a SEARCH not cancelled then has evaluated all 1024 keys, whatever the pair. -/
def Obligations.WorkCommandCanAlwaysFinish : Prop :=
  ∀ s : State, Inv s →
    ∃ turns : List Agent, (∀ a ∈ turns, isWorker a = true) ∧ turns.length ≤ remainingSteps s ∧
      ∃ t, core.run turns.length { s with schedule := turns ++ s.schedule } = .next t ∧
        t.op = none ∧ t.schedule = s.schedule ∧ (s.op ≠ none → t.done = true) ∧
        (s.op = some .search → s.cancel = false → t.nextKey = 1024 ∧ t.evaluated = 1024 ∧ t.aborted = false)

/-! ## Whole-machine rules -/

/-- Rule R342 (the spec's own inference from rules R149 and R45): after acceptance nothing can fail: no internal agent's step has an
error outcome or touches ERR, and the sink never has more than 1024 entries. -/
def Obligations.NothingFailsAfterAcceptance : Prop :=
  ∀ s : State, Inv s →
    s.sink.length ≤ 1024 ∧
    ∀ a, a ≠ .host → a ≠ .platform → ∃ t, agentTurn a s = .next t ∧ t.err = s.err ∧ t.errcode = s.errcode

/-- Rule R370: an idle block takes no internal step and keeps all its state; only a host command, a write to CMD of a given or a
recorded value, or reset moves it (and reset leaves it idle, rule R59). -/
def Obligations.IdleBlockStaysIdle : Prop :=
  ∀ s : State, Inv s → s.op = none →
    (∀ a : Agent, a ≠ .host → a ≠ .platform → agentEnabled a s = false ∧ agentTurn a s = .next s) ∧
    ∀ t : State, step s = .next t → t.op ≠ none →
      (takeTurn s).1 = .host ∧
        ((∃ w rest, s.script = .write 0x00C 4 w :: rest) ∨ ∃ src rest, s.script = .copy 0x00C src :: rest)

/-- 10_state.md R58 and log 5 (DEDUCED: the model's own reading): an agent given a turn while its step is not enabled changes nothing.
-/
def Obligations.DisabledAgentChangesNothing : Prop :=
  ∀ (s : State) (a : Agent), agentEnabled a s = false → agentTurn a s = .next s

/-- Rule R167: no command, host access or reset changes the tables. That no step changes any other parameter of rule R8 is the model's
choice (log 1, DESIGN CHOICE). -/
def Obligations.ConfigurationNeverChanges : Prop :=
  ∀ s t : State, step s = .next t → t.cfg = s.cfg

/-- Rules R39, R40: in every state, BUSY or not, DOUT reads its block in bits 7:0 and SUBKEYS reads K1 in bits 7:0 and K2 in bits 15:8,
the other bits 0. DOUT changes only at the completion of ENCRYPT or DECRYPT, and SUBKEYS only at that of KEYSCHED, ENCRYPT or DECRYPT
(or at reset). -/
def Obligations.OnlyCompletionsWriteDoutAndSubkeys : Prop :=
  (∀ s : State,
    readWindow s 0x020 = s.dout.setWidth 32 ∧
    (readWindow s 0x024).extractLsb' 0 8 = s.subK1 ∧ (readWindow s 0x024).extractLsb' 8 8 = s.subK2 ∧
    (readWindow s 0x024).extractLsb' 16 16 = 0#16) ∧
  ∀ s t : State, step s = .next t →
    ((takeTurn s).1 = .platform ∧ t.dout = 0#8 ∧ t.subK1 = 0#8 ∧ t.subK2 = 0#8) ∨
    ((t.dout = s.dout ∨
        ((takeTurn s).1 = .commandUnit ∧ t.op = none ∧ t.done = true ∧
          ((s.op = some .encrypt ∧ t.dout = encryptBlock s.cfg.tables s.opIn s.opKey) ∨
           (s.op = some .decrypt ∧ t.dout = decryptBlock s.cfg.tables s.opIn s.opKey)))) ∧
     ((t.subK1 = s.subK1 ∧ t.subK2 = s.subK2) ∨
        ((takeTurn s).1 = .commandUnit ∧ t.op = none ∧ t.done = true ∧
          (s.op = some .keysched ∨ s.op = some .encrypt ∨ s.op = some .decrypt) ∧
          (t.subK1, t.subK2) = keySchedule s.cfg.tables s.opKey)))

/-- 93_implementation_defined.md I2 and rule R396: no rule's result depends on BASE, IRQ_LINE, CLK_PERIOD, LAT_CIPHER or LAT_LANE: with
other values of them a step does the same. -/
def Obligations.UnusedParametersHaveNoEffect : Prop :=
  ∀ (s : State) (base irqLine clkPeriod latCipher latLane : Nat), s.cfg.wellFormed = true → base % 512 = 0 →
    let change (u : State) : State :=
      { u with
        cfg :=
          { u.cfg with
            base := base, irqLine := irqLine, clkPeriod := clkPeriod, latCipher := latCipher, latLane := latLane } }
    (∀ t, step s = .next t → step (change s) = .next (change t)) ∧
    (∀ f, step s = .fault f → step (change s) = .fault f) ∧
    (∀ r, step s = .refused r → step (change s) = .refused r)

/-! ## The register window -/

/-- Rule R35: the fields of STATUS as read. -/
def Obligations.StatusReadsItsFields : Prop :=
  ∀ s : State,
    let w := readWindow s 0x010
    w.getLsbD 0 = s.op.isSome ∧ w.getLsbD 1 = s.done ∧ w.getLsbD 2 = s.err ∧ w.getLsbD 3 = s.aborted ∧
    w.extractLsb' 4 4 = s.errcode ∧ w.extractLsb' 8 4 = s.lastop ∧
    w.getLsbD 12 = ((s.doneIe && s.done) || (s.errIe && s.err)) ∧ w.extractLsb' 13 19 = 0#19

/-- Rules R35, R357: a host write to STATUS clears DONE where bit 1 is 1, and ERR with ERRCODE where bit 2 is 1; nothing else. -/
def Obligations.StatusWriteClearsWhereOneIsWritten : Prop :=
  ∀ (v : Word) (s : State),
    memWrite 0x010 v s = .next
      { s with
        done := s.done && !v.getLsbD 1
        err := s.err && !v.getLsbD 2
        errcode := if v.getLsbD 2 then 0#4 else s.errcode }

/-- Rule R33: CTRL holds the interrupt enables in bits 0 and 1, its other bits read zero and ignore writes, and a write applies at once
to `irq` (rule R350), BUSY or not. -/
def Obligations.CtrlWriteAppliesAtOnce : Prop :=
  ∀ (v : Word) (s : State),
    ∃ t, memWrite 0x008 v s = .next t ∧ t = { s with doneIe := v.getLsbD 0, errIe := v.getLsbD 1 } ∧
      readWindow t 0x008 = v &&& 3#32 ∧ irq t = ((v.getLsbD 0 && s.done) || (v.getLsbD 1 && s.err))

/-- Rules R36, R37, R38, R43: KEY, DIN and TARGET store all 32 bits and read them back; RES_INDEX keeps bits 9:0. Nothing else changes.
-/
def Obligations.OperandRegistersReadBack : Prop :=
  ∀ (v : Word) (s : State),
    (memWrite 0x014 v s = .next { s with key := v } ∧ readWindow { s with key := v } 0x014 = v) ∧
    (memWrite 0x018 v s = .next { s with din := v } ∧ readWindow { s with din := v } 0x018 = v) ∧
    (memWrite 0x01C v s = .next { s with target := v } ∧ readWindow { s with target := v } 0x01C = v) ∧
    (∃ t, memWrite 0x030 v s = .next t ∧ t = { s with resIndex := v.extractLsb' 0 10 } ∧
      readWindow t 0x030 = v &&& 0x3FF#32)

/-- Rules R49, R76: a write to any offset but CTRL, CMD, STATUS, KEY, DIN, TARGET and RES_INDEX has no effect; CMD and the reserved
offsets read 0 (rules R34, R49). -/
def Obligations.OtherOffsetsIgnoreWrites : Prop :=
  ∀ (off : Nat) (v : Word) (s : State), off < 512 → off % 4 = 0 →
    (off ∉ [0x008, 0x00C, 0x010, 0x014, 0x018, 0x01C, 0x030] → memWrite off v s = .next s) ∧
    (off = 0x00C ∨ (0x040 ≤ off ∧ off ≤ 0x0FC) ∨ 0x180 ≤ off → readWindow s off = 0#32)

/-- Rules R44, R46: RES_KEY and RES_TIME read the selected entry where VALID (not BUSY, RES_INDEX below COUNT), and 0 otherwise. -/
def Obligations.SelectedResultReads : Prop :=
  ∀ s : State, Inv s →
    (s.op = none → s.resIndex.toNat < s.count →
      ∃ e, s.sink[s.resIndex.toNat]? = some e ∧
        (readWindow s 0x034).getLsbD 31 = true ∧ (readWindow s 0x034).extractLsb' 10 21 = 0#21 ∧
        (readWindow s 0x034).extractLsb' 0 10 = e.key ∧ readWindow s 0x038 = e.time) ∧
    ((s.op ≠ none ∨ s.count ≤ s.resIndex.toNat) → readWindow s 0x034 = 0#32 ∧ readWindow s 0x038 = 0#32)

/-- Rule R48: while BUSY = 0, bit `b` of MATCH_MAPj is MAP's bit `32*j + b`, 1 exactly when key number `32*j + b` is in the sink; while
BUSY = 1 every MATCH_MAPj reads 0; a write has no effect. -/
def Obligations.MatchMapIsTheSinkWhenIdle : Prop :=
  ∀ (s : State) (j : Nat), Inv s → j < 32 →
    (s.op = none → ∀ b, b < 32 →
      (readWindow s (0x100 + 4 * j)).getLsbD b = s.map.getLsbD (32 * j + b) ∧
      ((readWindow s (0x100 + 4 * j)).getLsbD b = true ↔ BitVec.ofNat 10 (32 * j + b) ∈ sinkKeys s)) ∧
    (s.op ≠ none → readWindow s (0x100 + 4 * j) = 0#32) ∧
    ∀ v : Word, memWrite (0x100 + 4 * j) v s = .next s

/-- Rules R41, R42, R47: TIME reads its counter in every state, and PROGRESS and RES_COUNT read theirs, live, with the other bits 0. -/
def Obligations.ProgressAndCountReadTheCounters : Prop :=
  (∀ s : State, readWindow s 0x03C = s.time) ∧
  ∀ s : State, Inv s →
    ((readWindow s 0x028).extractLsb' 0 11).toNat = s.nextKey ∧ (readWindow s 0x028).extractLsb' 11 5 = 0#5 ∧
    ((readWindow s 0x028).extractLsb' 16 11).toNat = s.evaluated ∧ (readWindow s 0x028).extractLsb' 27 5 = 0#5 ∧
    (readWindow s 0x02C).toNat = s.count

/-- Rules R76, R108: an admitted read changes nothing but the host's own script and record, and a POLL is one read, repeated until it
matches. -/
def Obligations.ReadsHaveNoSideEffect : Prop :=
  ∀ (s : State) (off : Nat) (rest : List HostOp) (sched : List Agent), s.cfg.wellFormed = true →
    s.schedule = .host :: sched → off < 512 → off % 4 = 0 →
    (s.script = .read off 4 :: rest →
      step s = .next
        { s with schedule := sched, script := rest, record := s.record ++ [⟨off, readWindow s off⟩] }) ∧
    (∀ mask value, s.script = .poll off mask value :: rest →
      (readWindow s off &&& mask = value → step s = .next { s with schedule := sched, script := rest }) ∧
      (readWindow s off &&& mask ≠ value → step s = .next { s with schedule := sched }))

/-- Rule R344: an access inside the window that is not an aligned 32-bit access is the host fault `BusError(off, width)`. -/
def Obligations.OtherAccessesAreBusErrors : Prop :=
  ∀ (s : State) (off width : Nat) (rest : List HostOp) (sched : List Agent), s.cfg.wellFormed = true →
    s.schedule = .host :: sched → off < 512 →
    ((off % 4 ≠ 0 ∨ width ≠ 4) →
      (s.script = .read off width :: rest → step s = .fault (.busError off width)) ∧
      (∀ v, s.script = .write off width v :: rest → step s = .fault (.busError off width))) ∧
    (off % 4 ≠ 0 → ∀ mask value, s.script = .poll off mask value :: rest → step s = .fault (.busError off 4))

/-- Rules R70, R71 and log 9 (DEDUCED): an access outside the window, a read, a write or a POLL, is no access to the block and is
refused by name. -/
def Obligations.OutsideTheWindowIsRefused : Prop :=
  ∀ (s : State) (off width : Nat) (v mask : Word) (rest : List HostOp) (sched : List Agent), s.cfg.wellFormed = true →
    s.schedule = .host :: sched → 512 ≤ off →
    (s.script = .read off width :: rest ∨ s.script = .write off width v :: rest ∨ s.script = .poll off mask v :: rest) →
    step s = .refused (.outsideWindow off)

/-! ## The host's procedures -/

/-- Rule R345: the host's validation of a key string (length 10) and of a block string (length 8): the length first, then the
characters; on either error the host error and no transaction; rule R109: a valid string gives the one write of its value, which fits
the operand's field and whose element `i`, leftmost most significant, is character `i` (rule R12). -/
def Obligations.HostValidatesStrings : Prop :=
  ∀ (n : Nat) (reg : Reg) (set : List Char → Pseudo),
    ((n = 10 ∧ reg = .key ∧ set = .setKey) ∨ (n = 8 ∧ reg = .din ∧ set = .setBlk) ∨
      (n = 8 ∧ reg = .target ∧ set = .setTgt)) →
    ∀ chars : List Char,
      (chars.length ≠ n → scriptTransactions [.pseudo (set chars)] = ([], some .invalidLength)) ∧
      (chars.length = n → (∃ c ∈ chars, c ≠ '0' ∧ c ≠ '1') →
        scriptTransactions [.pseudo (set chars)] = ([], some .invalidSymbol)) ∧
      (chars.length = n → (∀ c ∈ chars, c = '0' ∨ c = '1') →
        scriptTransactions [.pseudo (set chars)] =
          ([.write (regOffset reg) 4 (BitVec.ofNat 32 (binaryVal chars))], none) ∧
        binaryVal chars < 2 ^ n ∧
        ∀ i, i < n → (elt (seqOf n (binaryVal chars)) i = true ↔ chars[i]? = some '1'))

/-- Rule R255, and rule R256 (the spec's own inference from rules R250 to R253 and R228): decrypting an encrypted text gives each
character with its code point reduced modulo 256, so the text itself where every code point is below 256. -/
def Obligations.TextRoundTrip : Prop :=
  ∀ (t : Tables) (key : Key) (text : List Char), t.wellFormed = true →
    decryptText t (encryptText t text key) key = text.map (fun c => Char.ofNat (c.toNat % 256)) ∧
    ((∀ c ∈ text, c.toNat < 256) → decryptText t (encryptText t text key) key = text)

/-- Rule R107: `WR <reg>, <src>` is the write of the value last recorded for `src`, the latest RD of it; with none recorded the script
is refused by name (log 17, the model's reading). Rules R110, R298: the host's loop over the results, once the block is idle and
RES_COUNT is read, makes three accesses for each result in order, and the pairs it reads are the sink's entries; RES_KEY is VALID in
each, and the block changes in RES_INDEX only. That the loop's bound takes a turn of its own is log 17. -/
def Obligations.HostUsesTheValuesItHasRead : Prop :=
  (∀ (s : State) (off src : Nat) (rest : List HostOp) (sched : List Agent), s.cfg.wellFormed = true →
    s.schedule = .host :: sched → s.script = .copy off src :: rest →
    (∀ before after v, s.record = before ++ ⟨src, v⟩ :: after → (∀ r ∈ after, r.off ≠ src) →
      step s = step { s with script := .write off 4 v :: rest }) ∧
    ((∀ r ∈ s.record, r.off ≠ src) → step s = .refused (.unreadValue src))) ∧
  ∀ (s : State) (rest : List HostOp), Inv s → s.op = none → s.script = .readResults :: rest →
    recorded 0x02C s.record = some (readWindow s 0x02C) →
    let turns := 1 + 3 * s.count
    ∃ read resIndex, searchResults read = s.sink ∧ (∀ w ∈ readingsOf 0x034 read, w.getLsbD 31 = true) ∧
      core.run turns { s with schedule := List.replicate turns .host ++ s.schedule } =
        .next { s with script := rest, record := s.record ++ read, resIndex := resIndex }

/-! ## Fair runs -/

/-- Rule R394: in every weakly fair run the command in flight comes to its end, with no bound on the steps it takes: it stays in flight
until the command unit ends it with DONE, or reset discards it (rule R380). A SEARCH that ends uncancelled has then evaluated all 1024
keys, whatever the pair (rule R296, the spec's own inference from rules R278, R280 and R286). -/
def Obligations.EveryFairRunCompletes : Prop :=
  ∀ (turns : Nat → Agent) (states : Nat → State), IsRun turns states → WeaklyFair turns states → Inv (states 0) →
    ∀ n, (states n).op ≠ none →
      ∃ m, n ≤ m ∧ (∀ k, n ≤ k → k ≤ m → (states k).op = (states n).op) ∧ (states (m + 1)).op = none ∧
        (turns m = .platform ∨
          (turns m = .commandUnit ∧ (states (m + 1)).done = true ∧
            ((states m).op = some .search → (states m).cancel = false →
              (states (m + 1)).nextKey = 1024 ∧ (states (m + 1)).evaluated = 1024 ∧ (states (m + 1)).aborted = false)))
end

