-- ==== Sys2Proof/Laws/Datapath.lean ====
section
/-!
SUPPORT. The datapath, element by element (rules R160 to R165).
-/

namespace Sys2Proof.Machine

theorem elt_ofElts (n : Nat) (f : Nat → Bool) (i : Nat) (h : i < n) : elt (ofElts n f) i = f i := by
  induction n with
  | zero => omega
  | succ n ih =>
    simp only [elt, ofElts] at *
    rw [BitVec.getMsbD_concat]
    by_cases hi : i < n
    · simp [hi, ih hi]
    · have : i = n := by omega
      subst this
      simp

theorem elt_of_le {n : Nat} (s : BitVec n) (i : Nat) (h : n ≤ i) : elt s i = false := by
  simp [elt, BitVec.getMsbD, Nat.not_lt.mpr h]

theorem eq_of_elt {n : Nat} {a b : BitVec n} (h : ∀ i < n, elt a i = elt b i) : a = b :=
  BitVec.eq_of_getMsbD_eq h

@[simp] theorem elt_xor {n : Nat} (a b : BitVec n) (i : Nat) : elt (a ^^^ b) i = (elt a i ^^ elt b i) := by
  simp [elt]

theorem elt_append {n m : Nat} (a : BitVec n) (b : BitVec m) (i : Nat) :
    elt (a ++ b) i = if n ≤ i then elt b (i - n) else elt a i := by
  simp [elt, BitVec.getMsbD_append]

theorem elt_permute {m : Nat} (n : Nat) (s : BitVec m) (t : List Nat) (i : Nat) (h : i < n) :
    elt (permute n s t) i = elt s (t.getD i 0 - 1) := by
  rw [permute, elt_ofElts n _ i h]

theorem elt_rotl {m : Nat} (s : BitVec m) (n i : Nat) (h : i < m) : elt (rotl s n) i = elt s ((i + n) % m) := by
  simp [elt, rotl, BitVec.getMsbD_rotateLeft, h, Nat.add_comm]

/-- Splitting in two halves and joining them again gives the sequence back (rule R165). -/
theorem append_halves_eight (s : BitVec 8) : leftHalf 4 s ++ rightHalf 4 s = s := by
  unfold leftHalf rightHalf
  exact BitVec.extractLsb'_append_extractLsb'_eq_extractLsb' (by rfl) |>.trans (by simp)

/-- The same for a 10-bit value (rule R165). -/
theorem append_halves_ten (s : BitVec 10) : leftHalf 5 s ++ rightHalf 5 s = s := by
  unfold leftHalf rightHalf
  exact BitVec.extractLsb'_append_extractLsb'_eq_extractLsb' (by rfl) |>.trans (by simp)

@[simp] theorem leftHalf_append (a b : Half) : leftHalf 4 (a ++ b) = a := by
  apply BitVec.eq_of_getLsbD_eq
  intro i hi
  have h : (a ++ b).getLsbD (4 + i) = if 4 + i < 4 then b.getLsbD (4 + i) else a.getLsbD (4 + i - 4) :=
    BitVec.getLsbD_append
  simp only [leftHalf, BitVec.getLsbD_extractLsb', hi, decide_true, Bool.true_and]
  exact h.trans (by simp)

@[simp] theorem rightHalf_append (a b : Half) : rightHalf 4 (a ++ b) = b := by
  apply BitVec.eq_of_getLsbD_eq
  intro i hi
  have h : (a ++ b).getLsbD (0 + i) = if 0 + i < 4 then b.getLsbD (0 + i) else a.getLsbD (0 + i - 4) :=
    BitVec.getLsbD_append
  simp only [rightHalf, BitVec.getLsbD_extractLsb', hi, decide_true, Bool.true_and]
  exact h.trans (by simp [hi])

/-- A permutation of a sequence of equal elements is that element throughout (rules R160, R182). -/
theorem permute_const {m : Nat} (n : Nat) (b : Bool) (s : BitVec m) (t : List Nat)
    (hs : ∀ i < m, elt s i = b) (hl : t.length = n) (ht : ∀ e ∈ t, 1 ≤ e ∧ e ≤ m) :
    ∀ i < n, elt (permute n s t) i = b := by
  intro i hi
  have hi' : i < t.length := by omega
  have he := ht (t[i]) (List.getElem_mem hi')
  rw [elt_permute n s t i hi, List.getD_eq_getElem?_getD, List.getElem?_eq_getElem hi', Option.getD_some]
  exact hs _ (by omega)

end Sys2Proof.Machine
end

