-- ==== Sys2Proof/Laws/Cipher.lean ====
section
/-!
SUPPORT. The tables and the cipher: what the well-formedness of a table set gives (rule R166), and the two halves of the Feistel
structure (rules R220, R221).
-/

namespace Sys2Proof.Machine

theorem tableShape_iff (n m : Nat) (t : List Nat) :
    tableShape n m t = true ↔ t.length = n ∧ ∀ e ∈ t, 1 ≤ e ∧ e ≤ m := by
  simp [tableShape]

/-- An entry of a table of the right shape lies in its range. -/
theorem tableShape_getD {n m : Nat} {t : List Nat} (h : tableShape n m t = true) {i : Nat} (hi : i < n) :
    1 ≤ t.getD i 0 ∧ t.getD i 0 ≤ m := by
  obtain ⟨hl, ht⟩ := (tableShape_iff n m t).mp h
  have hi' : i < t.length := by omega
  rw [List.getD_eq_getElem?_getD, List.getElem?_eq_getElem hi', Option.getD_some]
  exact ht _ (List.getElem_mem hi')

theorem undoes_iff (ip ipinv : List Nat) :
    undoes ip ipinv = true ↔ ∀ i < 8, ip.getD (ipinv.getD i 0 - 1) 0 = i + 1 := by
  simp [undoes]

/-- The check by entries gives rule R166's property. -/
theorem permute_ip_ipinv {ip ipinv : List Nat} (hs : tableShape 8 8 ipinv = true) (h : undoes ip ipinv = true)
    (s : Block) : permute 8 (permute 8 s ip) ipinv = s := by
  apply eq_of_elt
  intro i hi
  have hr := tableShape_getD hs hi
  rw [elt_permute _ _ _ _ hi, elt_permute _ _ _ _ (by omega), (undoes_iff ip ipinv).mp h i hi]
  rfl

/-- And conversely: the check by entries refuses no table set that has rule R166's property. -/
theorem undoes_of_permute {ip ipinv : List Nat} (hip : tableShape 8 8 ip = true) (hs : tableShape 8 8 ipinv = true)
    (h : ∀ s : Block, permute 8 (permute 8 s ip) ipinv = s) : undoes ip ipinv = true := by
  rw [undoes_iff]
  intro i hi
  have hr := tableShape_getD hs hi
  have hr2 := tableShape_getD hip (i := ipinv.getD i 0 - 1) (by omega)
  have h1 : elt (permute 8 (permute 8 (ofElts 8 (fun k => k == i)) ip) ipinv) i = elt (ofElts 8 (fun k => k == i)) i := by
    rw [h]
  rw [elt_permute _ _ _ _ hi, elt_permute _ _ _ _ (by omega), elt_ofElts _ _ _ hi, elt_ofElts _ _ _ (by omega)] at h1
  simp only [beq_self_eq_true, beq_iff_eq] at h1
  omega

/-- `permute` by IPINV and then by IP: the inverse on the other side, since a one-to-one map of the 256 blocks is onto. -/
theorem permute_ipinv_ip {ip ipinv : List Nat} (hs : tableShape 8 8 ipinv = true) (h : undoes ip ipinv = true)
    (s : Block) : permute 8 (permute 8 s ipinv) ip = s := by
  have left : Function.LeftInverse (fun x : Block => permute 8 x ipinv) (fun x : Block => permute 8 x ip) :=
    fun x => permute_ip_ipinv hs h x
  have surj : Function.Surjective (fun x : Block => permute 8 x ip) := Finite.surjective_of_injective left.injective
  exact (left.rightInverse_of_surjective surj) s

/-- What a well-formed table set gives, check by check (rule R166). -/
theorem tables_wellFormed {t : Tables} (h : t.wellFormed = true) :
    tableShape 10 10 t.p10 = true ∧ tableShape 8 10 t.p8 = true ∧ tableShape 8 8 t.ip = true ∧
    tableShape 8 8 t.ipinv = true ∧ undoes t.ip t.ipinv = true ∧ tableShape 8 4 t.ep = true ∧
    tableShape 4 4 t.p4 = true := by
  simp [Tables.wellFormed] at h
  tauto

theorem config_tables {c : Config} (h : c.wellFormed = true) : c.tables.wellFormed = true := by
  simp [Config.wellFormed] at h
  tauto

theorem config_lanes {c : Config} (h : c.wellFormed = true) : 1 ≤ c.nLanes ∧ c.nLanes ≤ 1024 := by
  simp [Config.wellFormed] at h
  tauto

/-- The two Feistel rounds between the initial permutation and its inverse (rule R220). -/
def feistel (t : Tables) (u ka kb : Block) : Block :=
  let r1 := leftHalf 4 u ^^^ roundF t (rightHalf 4 u) ka
  (rightHalf 4 u ^^^ roundF t r1 kb) ++ r1

theorem rounds_eq_feistel (t : Tables) (blk ka kb : Block) :
    rounds t blk ka kb = permute 8 (feistel t (permute 8 blk t.ip) ka kb) t.ipinv := rfl

/-- Two rounds are undone by the same two rounds with the subkeys exchanged, whatever F is (rules R204, R228). -/
theorem feistel_feistel (t : Tables) (u ka kb : Block) : feistel t (feistel t u ka kb) kb ka = u := by
  simp only [feistel, leftHalf_append, rightHalf_append, BitVec.xor_assoc, BitVec.xor_self, BitVec.xor_zero]
  exact append_halves_eight u

end Sys2Proof.Machine
end

