-- ==== Sys2Proof/Laws/State.lean ====
section
/-!
SUPPORT. One lemma per field per update of the state, each true by definition, so that no later proof unfolds a record update.
-/

namespace Sys2Proof.Machine

variable (s : State)

@[simp] theorem raiseCmdError_cfg (e : CmdError) : (raiseCmdError e s).cfg = s.cfg := rfl
@[simp] theorem raiseCmdError_doneIe (e : CmdError) : (raiseCmdError e s).doneIe = s.doneIe := rfl
@[simp] theorem raiseCmdError_errIe (e : CmdError) : (raiseCmdError e s).errIe = s.errIe := rfl
@[simp] theorem raiseCmdError_done (e : CmdError) : (raiseCmdError e s).done = s.done := rfl
@[simp] theorem raiseCmdError_err (e : CmdError) : (raiseCmdError e s).err = true := rfl
@[simp] theorem raiseCmdError_aborted (e : CmdError) : (raiseCmdError e s).aborted = s.aborted := rfl
@[simp] theorem raiseCmdError_errcode (e : CmdError) : (raiseCmdError e s).errcode = e.code := rfl
@[simp] theorem raiseCmdError_lastop (e : CmdError) : (raiseCmdError e s).lastop = s.lastop := rfl
@[simp] theorem raiseCmdError_key (e : CmdError) : (raiseCmdError e s).key = s.key := rfl
@[simp] theorem raiseCmdError_din (e : CmdError) : (raiseCmdError e s).din = s.din := rfl
@[simp] theorem raiseCmdError_target (e : CmdError) : (raiseCmdError e s).target = s.target := rfl
@[simp] theorem raiseCmdError_dout (e : CmdError) : (raiseCmdError e s).dout = s.dout := rfl
@[simp] theorem raiseCmdError_subK1 (e : CmdError) : (raiseCmdError e s).subK1 = s.subK1 := rfl
@[simp] theorem raiseCmdError_subK2 (e : CmdError) : (raiseCmdError e s).subK2 = s.subK2 := rfl
@[simp] theorem raiseCmdError_resIndex (e : CmdError) : (raiseCmdError e s).resIndex = s.resIndex := rfl
@[simp] theorem raiseCmdError_op (e : CmdError) : (raiseCmdError e s).op = s.op := rfl
@[simp] theorem raiseCmdError_opKey (e : CmdError) : (raiseCmdError e s).opKey = s.opKey := rfl
@[simp] theorem raiseCmdError_opIn (e : CmdError) : (raiseCmdError e s).opIn = s.opIn := rfl
@[simp] theorem raiseCmdError_opPt (e : CmdError) : (raiseCmdError e s).opPt = s.opPt := rfl
@[simp] theorem raiseCmdError_nextKey (e : CmdError) : (raiseCmdError e s).nextKey = s.nextKey := rfl
@[simp] theorem raiseCmdError_evaluated (e : CmdError) : (raiseCmdError e s).evaluated = s.evaluated := rfl
@[simp] theorem raiseCmdError_cancel (e : CmdError) : (raiseCmdError e s).cancel = s.cancel := rfl
@[simp] theorem raiseCmdError_lanes (e : CmdError) : (raiseCmdError e s).lanes = s.lanes := rfl
@[simp] theorem raiseCmdError_sink (e : CmdError) : (raiseCmdError e s).sink = s.sink := rfl
@[simp] theorem raiseCmdError_count (e : CmdError) : (raiseCmdError e s).count = s.count := rfl
@[simp] theorem raiseCmdError_map (e : CmdError) : (raiseCmdError e s).map = s.map := rfl
@[simp] theorem raiseCmdError_time (e : CmdError) : (raiseCmdError e s).time = s.time := rfl
@[simp] theorem raiseCmdError_script (e : CmdError) : (raiseCmdError e s).script = s.script := rfl
@[simp] theorem raiseCmdError_record (e : CmdError) : (raiseCmdError e s).record = s.record := rfl
@[simp] theorem raiseCmdError_schedule (e : CmdError) : (raiseCmdError e s).schedule = s.schedule := rfl
@[simp] theorem raiseCmdError_draws (e : CmdError) : (raiseCmdError e s).draws = s.draws := rfl

@[simp] theorem clearError_cfg : (clearError s).cfg = s.cfg := rfl
@[simp] theorem clearError_doneIe : (clearError s).doneIe = s.doneIe := rfl
@[simp] theorem clearError_errIe : (clearError s).errIe = s.errIe := rfl
@[simp] theorem clearError_done : (clearError s).done = s.done := rfl
@[simp] theorem clearError_err : (clearError s).err = false := rfl
@[simp] theorem clearError_aborted : (clearError s).aborted = s.aborted := rfl
@[simp] theorem clearError_errcode : (clearError s).errcode = 0#4 := rfl
@[simp] theorem clearError_lastop : (clearError s).lastop = s.lastop := rfl
@[simp] theorem clearError_key : (clearError s).key = s.key := rfl
@[simp] theorem clearError_din : (clearError s).din = s.din := rfl
@[simp] theorem clearError_target : (clearError s).target = s.target := rfl
@[simp] theorem clearError_dout : (clearError s).dout = s.dout := rfl
@[simp] theorem clearError_subK1 : (clearError s).subK1 = s.subK1 := rfl
@[simp] theorem clearError_subK2 : (clearError s).subK2 = s.subK2 := rfl
@[simp] theorem clearError_resIndex : (clearError s).resIndex = s.resIndex := rfl
@[simp] theorem clearError_op : (clearError s).op = s.op := rfl
@[simp] theorem clearError_opKey : (clearError s).opKey = s.opKey := rfl
@[simp] theorem clearError_opIn : (clearError s).opIn = s.opIn := rfl
@[simp] theorem clearError_opPt : (clearError s).opPt = s.opPt := rfl
@[simp] theorem clearError_nextKey : (clearError s).nextKey = s.nextKey := rfl
@[simp] theorem clearError_evaluated : (clearError s).evaluated = s.evaluated := rfl
@[simp] theorem clearError_cancel : (clearError s).cancel = s.cancel := rfl
@[simp] theorem clearError_lanes : (clearError s).lanes = s.lanes := rfl
@[simp] theorem clearError_sink : (clearError s).sink = s.sink := rfl
@[simp] theorem clearError_count : (clearError s).count = s.count := rfl
@[simp] theorem clearError_map : (clearError s).map = s.map := rfl
@[simp] theorem clearError_time : (clearError s).time = s.time := rfl
@[simp] theorem clearError_script : (clearError s).script = s.script := rfl
@[simp] theorem clearError_record : (clearError s).record = s.record := rfl
@[simp] theorem clearError_schedule : (clearError s).schedule = s.schedule := rfl
@[simp] theorem clearError_draws : (clearError s).draws = s.draws := rfl

@[simp] theorem clearDone_cfg : (clearDone s).cfg = s.cfg := rfl
@[simp] theorem clearDone_doneIe : (clearDone s).doneIe = s.doneIe := rfl
@[simp] theorem clearDone_errIe : (clearDone s).errIe = s.errIe := rfl
@[simp] theorem clearDone_done : (clearDone s).done = false := rfl
@[simp] theorem clearDone_err : (clearDone s).err = s.err := rfl
@[simp] theorem clearDone_aborted : (clearDone s).aborted = s.aborted := rfl
@[simp] theorem clearDone_errcode : (clearDone s).errcode = s.errcode := rfl
@[simp] theorem clearDone_lastop : (clearDone s).lastop = s.lastop := rfl
@[simp] theorem clearDone_key : (clearDone s).key = s.key := rfl
@[simp] theorem clearDone_din : (clearDone s).din = s.din := rfl
@[simp] theorem clearDone_target : (clearDone s).target = s.target := rfl
@[simp] theorem clearDone_dout : (clearDone s).dout = s.dout := rfl
@[simp] theorem clearDone_subK1 : (clearDone s).subK1 = s.subK1 := rfl
@[simp] theorem clearDone_subK2 : (clearDone s).subK2 = s.subK2 := rfl
@[simp] theorem clearDone_resIndex : (clearDone s).resIndex = s.resIndex := rfl
@[simp] theorem clearDone_op : (clearDone s).op = s.op := rfl
@[simp] theorem clearDone_opKey : (clearDone s).opKey = s.opKey := rfl
@[simp] theorem clearDone_opIn : (clearDone s).opIn = s.opIn := rfl
@[simp] theorem clearDone_opPt : (clearDone s).opPt = s.opPt := rfl
@[simp] theorem clearDone_nextKey : (clearDone s).nextKey = s.nextKey := rfl
@[simp] theorem clearDone_evaluated : (clearDone s).evaluated = s.evaluated := rfl
@[simp] theorem clearDone_cancel : (clearDone s).cancel = s.cancel := rfl
@[simp] theorem clearDone_lanes : (clearDone s).lanes = s.lanes := rfl
@[simp] theorem clearDone_sink : (clearDone s).sink = s.sink := rfl
@[simp] theorem clearDone_count : (clearDone s).count = s.count := rfl
@[simp] theorem clearDone_map : (clearDone s).map = s.map := rfl
@[simp] theorem clearDone_time : (clearDone s).time = s.time := rfl
@[simp] theorem clearDone_script : (clearDone s).script = s.script := rfl
@[simp] theorem clearDone_record : (clearDone s).record = s.record := rfl
@[simp] theorem clearDone_schedule : (clearDone s).schedule = s.schedule := rfl
@[simp] theorem clearDone_draws : (clearDone s).draws = s.draws := rfl

@[simp] theorem finish_cfg : (finish s).cfg = s.cfg := rfl
@[simp] theorem finish_doneIe : (finish s).doneIe = s.doneIe := rfl
@[simp] theorem finish_errIe : (finish s).errIe = s.errIe := rfl
@[simp] theorem finish_done : (finish s).done = true := rfl
@[simp] theorem finish_err : (finish s).err = s.err := rfl
@[simp] theorem finish_aborted : (finish s).aborted = s.aborted := rfl
@[simp] theorem finish_errcode : (finish s).errcode = s.errcode := rfl
@[simp] theorem finish_lastop : (finish s).lastop = s.lastop := rfl
@[simp] theorem finish_key : (finish s).key = s.key := rfl
@[simp] theorem finish_din : (finish s).din = s.din := rfl
@[simp] theorem finish_target : (finish s).target = s.target := rfl
@[simp] theorem finish_dout : (finish s).dout = s.dout := rfl
@[simp] theorem finish_subK1 : (finish s).subK1 = s.subK1 := rfl
@[simp] theorem finish_subK2 : (finish s).subK2 = s.subK2 := rfl
@[simp] theorem finish_resIndex : (finish s).resIndex = s.resIndex := rfl
@[simp] theorem finish_op : (finish s).op = none := rfl
@[simp] theorem finish_opKey : (finish s).opKey = s.opKey := rfl
@[simp] theorem finish_opIn : (finish s).opIn = s.opIn := rfl
@[simp] theorem finish_opPt : (finish s).opPt = s.opPt := rfl
@[simp] theorem finish_nextKey : (finish s).nextKey = s.nextKey := rfl
@[simp] theorem finish_evaluated : (finish s).evaluated = s.evaluated := rfl
@[simp] theorem finish_cancel : (finish s).cancel = s.cancel := rfl
@[simp] theorem finish_lanes : (finish s).lanes = s.lanes := rfl
@[simp] theorem finish_sink : (finish s).sink = s.sink := rfl
@[simp] theorem finish_count : (finish s).count = s.count := rfl
@[simp] theorem finish_map : (finish s).map = s.map := rfl
@[simp] theorem finish_time : (finish s).time = s.time := rfl
@[simp] theorem finish_script : (finish s).script = s.script := rfl
@[simp] theorem finish_record : (finish s).record = s.record := rfl
@[simp] theorem finish_schedule : (finish s).schedule = s.schedule := rfl
@[simp] theorem finish_draws : (finish s).draws = s.draws := rfl

@[simp] theorem setSubkeys_cfg (ks : Block × Block) : (setSubkeys ks s).cfg = s.cfg := rfl
@[simp] theorem setSubkeys_doneIe (ks : Block × Block) : (setSubkeys ks s).doneIe = s.doneIe := rfl
@[simp] theorem setSubkeys_errIe (ks : Block × Block) : (setSubkeys ks s).errIe = s.errIe := rfl
@[simp] theorem setSubkeys_done (ks : Block × Block) : (setSubkeys ks s).done = s.done := rfl
@[simp] theorem setSubkeys_err (ks : Block × Block) : (setSubkeys ks s).err = s.err := rfl
@[simp] theorem setSubkeys_aborted (ks : Block × Block) : (setSubkeys ks s).aborted = s.aborted := rfl
@[simp] theorem setSubkeys_errcode (ks : Block × Block) : (setSubkeys ks s).errcode = s.errcode := rfl
@[simp] theorem setSubkeys_lastop (ks : Block × Block) : (setSubkeys ks s).lastop = s.lastop := rfl
@[simp] theorem setSubkeys_key (ks : Block × Block) : (setSubkeys ks s).key = s.key := rfl
@[simp] theorem setSubkeys_din (ks : Block × Block) : (setSubkeys ks s).din = s.din := rfl
@[simp] theorem setSubkeys_target (ks : Block × Block) : (setSubkeys ks s).target = s.target := rfl
@[simp] theorem setSubkeys_dout (ks : Block × Block) : (setSubkeys ks s).dout = s.dout := rfl
@[simp] theorem setSubkeys_subK1 (ks : Block × Block) : (setSubkeys ks s).subK1 = ks.1 := rfl
@[simp] theorem setSubkeys_subK2 (ks : Block × Block) : (setSubkeys ks s).subK2 = ks.2 := rfl
@[simp] theorem setSubkeys_resIndex (ks : Block × Block) : (setSubkeys ks s).resIndex = s.resIndex := rfl
@[simp] theorem setSubkeys_op (ks : Block × Block) : (setSubkeys ks s).op = s.op := rfl
@[simp] theorem setSubkeys_opKey (ks : Block × Block) : (setSubkeys ks s).opKey = s.opKey := rfl
@[simp] theorem setSubkeys_opIn (ks : Block × Block) : (setSubkeys ks s).opIn = s.opIn := rfl
@[simp] theorem setSubkeys_opPt (ks : Block × Block) : (setSubkeys ks s).opPt = s.opPt := rfl
@[simp] theorem setSubkeys_nextKey (ks : Block × Block) : (setSubkeys ks s).nextKey = s.nextKey := rfl
@[simp] theorem setSubkeys_evaluated (ks : Block × Block) : (setSubkeys ks s).evaluated = s.evaluated := rfl
@[simp] theorem setSubkeys_cancel (ks : Block × Block) : (setSubkeys ks s).cancel = s.cancel := rfl
@[simp] theorem setSubkeys_lanes (ks : Block × Block) : (setSubkeys ks s).lanes = s.lanes := rfl
@[simp] theorem setSubkeys_sink (ks : Block × Block) : (setSubkeys ks s).sink = s.sink := rfl
@[simp] theorem setSubkeys_count (ks : Block × Block) : (setSubkeys ks s).count = s.count := rfl
@[simp] theorem setSubkeys_map (ks : Block × Block) : (setSubkeys ks s).map = s.map := rfl
@[simp] theorem setSubkeys_time (ks : Block × Block) : (setSubkeys ks s).time = s.time := rfl
@[simp] theorem setSubkeys_script (ks : Block × Block) : (setSubkeys ks s).script = s.script := rfl
@[simp] theorem setSubkeys_record (ks : Block × Block) : (setSubkeys ks s).record = s.record := rfl
@[simp] theorem setSubkeys_schedule (ks : Block × Block) : (setSubkeys ks s).schedule = s.schedule := rfl
@[simp] theorem setSubkeys_draws (ks : Block × Block) : (setSubkeys ks s).draws = s.draws := rfl

@[simp] theorem appendMatch_cfg (k : Key) : (appendMatch k s).cfg = s.cfg := rfl
@[simp] theorem appendMatch_doneIe (k : Key) : (appendMatch k s).doneIe = s.doneIe := rfl
@[simp] theorem appendMatch_errIe (k : Key) : (appendMatch k s).errIe = s.errIe := rfl
@[simp] theorem appendMatch_done (k : Key) : (appendMatch k s).done = s.done := rfl
@[simp] theorem appendMatch_err (k : Key) : (appendMatch k s).err = s.err := rfl
@[simp] theorem appendMatch_aborted (k : Key) : (appendMatch k s).aborted = s.aborted := rfl
@[simp] theorem appendMatch_errcode (k : Key) : (appendMatch k s).errcode = s.errcode := rfl
@[simp] theorem appendMatch_lastop (k : Key) : (appendMatch k s).lastop = s.lastop := rfl
@[simp] theorem appendMatch_key (k : Key) : (appendMatch k s).key = s.key := rfl
@[simp] theorem appendMatch_din (k : Key) : (appendMatch k s).din = s.din := rfl
@[simp] theorem appendMatch_target (k : Key) : (appendMatch k s).target = s.target := rfl
@[simp] theorem appendMatch_dout (k : Key) : (appendMatch k s).dout = s.dout := rfl
@[simp] theorem appendMatch_subK1 (k : Key) : (appendMatch k s).subK1 = s.subK1 := rfl
@[simp] theorem appendMatch_subK2 (k : Key) : (appendMatch k s).subK2 = s.subK2 := rfl
@[simp] theorem appendMatch_resIndex (k : Key) : (appendMatch k s).resIndex = s.resIndex := rfl
@[simp] theorem appendMatch_op (k : Key) : (appendMatch k s).op = s.op := rfl
@[simp] theorem appendMatch_opKey (k : Key) : (appendMatch k s).opKey = s.opKey := rfl
@[simp] theorem appendMatch_opIn (k : Key) : (appendMatch k s).opIn = s.opIn := rfl
@[simp] theorem appendMatch_opPt (k : Key) : (appendMatch k s).opPt = s.opPt := rfl
@[simp] theorem appendMatch_nextKey (k : Key) : (appendMatch k s).nextKey = s.nextKey := rfl
@[simp] theorem appendMatch_evaluated (k : Key) : (appendMatch k s).evaluated = s.evaluated := rfl
@[simp] theorem appendMatch_cancel (k : Key) : (appendMatch k s).cancel = s.cancel := rfl
@[simp] theorem appendMatch_lanes (k : Key) : (appendMatch k s).lanes = s.lanes := rfl
@[simp] theorem appendMatch_sink (k : Key) : (appendMatch k s).sink = s.sink ++ [⟨k, s.time⟩] := rfl
@[simp] theorem appendMatch_count (k : Key) : (appendMatch k s).count = s.count + 1 := rfl
@[simp] theorem appendMatch_map (k : Key) : (appendMatch k s).map = s.map ||| BitVec.twoPow 1024 k.toNat := rfl
@[simp] theorem appendMatch_time (k : Key) : (appendMatch k s).time = s.time := rfl
@[simp] theorem appendMatch_script (k : Key) : (appendMatch k s).script = s.script := rfl
@[simp] theorem appendMatch_record (k : Key) : (appendMatch k s).record = s.record := rfl
@[simp] theorem appendMatch_schedule (k : Key) : (appendMatch k s).schedule = s.schedule := rfl
@[simp] theorem appendMatch_draws (k : Key) : (appendMatch k s).draws = s.draws := rfl

@[simp] theorem writeCtrl_cfg (v : Word) : (writeCtrl v s).cfg = s.cfg := rfl
@[simp] theorem writeCtrl_doneIe (v : Word) : (writeCtrl v s).doneIe = v.getLsbD 0 := rfl
@[simp] theorem writeCtrl_errIe (v : Word) : (writeCtrl v s).errIe = v.getLsbD 1 := rfl
@[simp] theorem writeCtrl_done (v : Word) : (writeCtrl v s).done = s.done := rfl
@[simp] theorem writeCtrl_err (v : Word) : (writeCtrl v s).err = s.err := rfl
@[simp] theorem writeCtrl_aborted (v : Word) : (writeCtrl v s).aborted = s.aborted := rfl
@[simp] theorem writeCtrl_errcode (v : Word) : (writeCtrl v s).errcode = s.errcode := rfl
@[simp] theorem writeCtrl_lastop (v : Word) : (writeCtrl v s).lastop = s.lastop := rfl
@[simp] theorem writeCtrl_key (v : Word) : (writeCtrl v s).key = s.key := rfl
@[simp] theorem writeCtrl_din (v : Word) : (writeCtrl v s).din = s.din := rfl
@[simp] theorem writeCtrl_target (v : Word) : (writeCtrl v s).target = s.target := rfl
@[simp] theorem writeCtrl_dout (v : Word) : (writeCtrl v s).dout = s.dout := rfl
@[simp] theorem writeCtrl_subK1 (v : Word) : (writeCtrl v s).subK1 = s.subK1 := rfl
@[simp] theorem writeCtrl_subK2 (v : Word) : (writeCtrl v s).subK2 = s.subK2 := rfl
@[simp] theorem writeCtrl_resIndex (v : Word) : (writeCtrl v s).resIndex = s.resIndex := rfl
@[simp] theorem writeCtrl_op (v : Word) : (writeCtrl v s).op = s.op := rfl
@[simp] theorem writeCtrl_opKey (v : Word) : (writeCtrl v s).opKey = s.opKey := rfl
@[simp] theorem writeCtrl_opIn (v : Word) : (writeCtrl v s).opIn = s.opIn := rfl
@[simp] theorem writeCtrl_opPt (v : Word) : (writeCtrl v s).opPt = s.opPt := rfl
@[simp] theorem writeCtrl_nextKey (v : Word) : (writeCtrl v s).nextKey = s.nextKey := rfl
@[simp] theorem writeCtrl_evaluated (v : Word) : (writeCtrl v s).evaluated = s.evaluated := rfl
@[simp] theorem writeCtrl_cancel (v : Word) : (writeCtrl v s).cancel = s.cancel := rfl
@[simp] theorem writeCtrl_lanes (v : Word) : (writeCtrl v s).lanes = s.lanes := rfl
@[simp] theorem writeCtrl_sink (v : Word) : (writeCtrl v s).sink = s.sink := rfl
@[simp] theorem writeCtrl_count (v : Word) : (writeCtrl v s).count = s.count := rfl
@[simp] theorem writeCtrl_map (v : Word) : (writeCtrl v s).map = s.map := rfl
@[simp] theorem writeCtrl_time (v : Word) : (writeCtrl v s).time = s.time := rfl
@[simp] theorem writeCtrl_script (v : Word) : (writeCtrl v s).script = s.script := rfl
@[simp] theorem writeCtrl_record (v : Word) : (writeCtrl v s).record = s.record := rfl
@[simp] theorem writeCtrl_schedule (v : Word) : (writeCtrl v s).schedule = s.schedule := rfl
@[simp] theorem writeCtrl_draws (v : Word) : (writeCtrl v s).draws = s.draws := rfl

@[simp] theorem latchOperands_cfg (c : WorkCmd) : (latchOperands c s).cfg = s.cfg := rfl
@[simp] theorem latchOperands_doneIe (c : WorkCmd) : (latchOperands c s).doneIe = s.doneIe := rfl
@[simp] theorem latchOperands_errIe (c : WorkCmd) : (latchOperands c s).errIe = s.errIe := rfl
@[simp] theorem latchOperands_done (c : WorkCmd) : (latchOperands c s).done = s.done := rfl
@[simp] theorem latchOperands_err (c : WorkCmd) : (latchOperands c s).err = s.err := rfl
@[simp] theorem latchOperands_aborted (c : WorkCmd) : (latchOperands c s).aborted = s.aborted := rfl
@[simp] theorem latchOperands_errcode (c : WorkCmd) : (latchOperands c s).errcode = s.errcode := rfl
@[simp] theorem latchOperands_lastop (c : WorkCmd) : (latchOperands c s).lastop = s.lastop := rfl
@[simp] theorem latchOperands_key (c : WorkCmd) : (latchOperands c s).key = s.key := rfl
@[simp] theorem latchOperands_din (c : WorkCmd) : (latchOperands c s).din = s.din := rfl
@[simp] theorem latchOperands_target (c : WorkCmd) : (latchOperands c s).target = s.target := rfl
@[simp] theorem latchOperands_dout (c : WorkCmd) : (latchOperands c s).dout = s.dout := rfl
@[simp] theorem latchOperands_subK1 (c : WorkCmd) : (latchOperands c s).subK1 = s.subK1 := rfl
@[simp] theorem latchOperands_subK2 (c : WorkCmd) : (latchOperands c s).subK2 = s.subK2 := rfl
@[simp] theorem latchOperands_resIndex (c : WorkCmd) : (latchOperands c s).resIndex = s.resIndex := rfl
@[simp] theorem latchOperands_op (c : WorkCmd) : (latchOperands c s).op = s.op := rfl
@[simp] theorem latchOperands_opKey (c : WorkCmd) : (latchOperands c s).opKey = if c.readsKey then keyOperand s else s.opKey := rfl
@[simp] theorem latchOperands_opIn (c : WorkCmd) : (latchOperands c s).opIn = if c.readsDin then dinOperand s else s.opIn := rfl
@[simp] theorem latchOperands_opPt (c : WorkCmd) : (latchOperands c s).opPt = if c.readsTarget then targetOperand s else s.opPt := rfl
@[simp] theorem latchOperands_nextKey (c : WorkCmd) : (latchOperands c s).nextKey = s.nextKey := rfl
@[simp] theorem latchOperands_evaluated (c : WorkCmd) : (latchOperands c s).evaluated = s.evaluated := rfl
@[simp] theorem latchOperands_cancel (c : WorkCmd) : (latchOperands c s).cancel = s.cancel := rfl
@[simp] theorem latchOperands_lanes (c : WorkCmd) : (latchOperands c s).lanes = s.lanes := rfl
@[simp] theorem latchOperands_sink (c : WorkCmd) : (latchOperands c s).sink = s.sink := rfl
@[simp] theorem latchOperands_count (c : WorkCmd) : (latchOperands c s).count = s.count := rfl
@[simp] theorem latchOperands_map (c : WorkCmd) : (latchOperands c s).map = s.map := rfl
@[simp] theorem latchOperands_time (c : WorkCmd) : (latchOperands c s).time = s.time := rfl
@[simp] theorem latchOperands_script (c : WorkCmd) : (latchOperands c s).script = s.script := rfl
@[simp] theorem latchOperands_record (c : WorkCmd) : (latchOperands c s).record = s.record := rfl
@[simp] theorem latchOperands_schedule (c : WorkCmd) : (latchOperands c s).schedule = s.schedule := rfl
@[simp] theorem latchOperands_draws (c : WorkCmd) : (latchOperands c s).draws = s.draws := rfl

@[simp] theorem searchStart_cfg : (searchStart s).cfg = s.cfg := rfl
@[simp] theorem searchStart_doneIe : (searchStart s).doneIe = s.doneIe := rfl
@[simp] theorem searchStart_errIe : (searchStart s).errIe = s.errIe := rfl
@[simp] theorem searchStart_done : (searchStart s).done = s.done := rfl
@[simp] theorem searchStart_err : (searchStart s).err = s.err := rfl
@[simp] theorem searchStart_aborted : (searchStart s).aborted = s.aborted := rfl
@[simp] theorem searchStart_errcode : (searchStart s).errcode = s.errcode := rfl
@[simp] theorem searchStart_lastop : (searchStart s).lastop = s.lastop := rfl
@[simp] theorem searchStart_key : (searchStart s).key = s.key := rfl
@[simp] theorem searchStart_din : (searchStart s).din = s.din := rfl
@[simp] theorem searchStart_target : (searchStart s).target = s.target := rfl
@[simp] theorem searchStart_dout : (searchStart s).dout = s.dout := rfl
@[simp] theorem searchStart_subK1 : (searchStart s).subK1 = s.subK1 := rfl
@[simp] theorem searchStart_subK2 : (searchStart s).subK2 = s.subK2 := rfl
@[simp] theorem searchStart_resIndex : (searchStart s).resIndex = s.resIndex := rfl
@[simp] theorem searchStart_op : (searchStart s).op = s.op := rfl
@[simp] theorem searchStart_opKey : (searchStart s).opKey = s.opKey := rfl
@[simp] theorem searchStart_opIn : (searchStart s).opIn = s.opIn := rfl
@[simp] theorem searchStart_opPt : (searchStart s).opPt = s.opPt := rfl
@[simp] theorem searchStart_nextKey : (searchStart s).nextKey = 0 := rfl
@[simp] theorem searchStart_evaluated : (searchStart s).evaluated = 0 := rfl
@[simp] theorem searchStart_cancel : (searchStart s).cancel = false := rfl
@[simp] theorem searchStart_lanes : (searchStart s).lanes = s.lanes := rfl
@[simp] theorem searchStart_sink : (searchStart s).sink = [] := rfl
@[simp] theorem searchStart_count : (searchStart s).count = 0 := rfl
@[simp] theorem searchStart_map : (searchStart s).map = 0#1024 := rfl
@[simp] theorem searchStart_time : (searchStart s).time = 0#32 := rfl
@[simp] theorem searchStart_script : (searchStart s).script = s.script := rfl
@[simp] theorem searchStart_record : (searchStart s).record = s.record := rfl
@[simp] theorem searchStart_schedule : (searchStart s).schedule = s.schedule := rfl
@[simp] theorem searchStart_draws : (searchStart s).draws = s.draws := rfl

@[simp] theorem dispatch_cfg (j : Nat) : (dispatch j s).cfg = s.cfg := rfl
@[simp] theorem dispatch_doneIe (j : Nat) : (dispatch j s).doneIe = s.doneIe := rfl
@[simp] theorem dispatch_errIe (j : Nat) : (dispatch j s).errIe = s.errIe := rfl
@[simp] theorem dispatch_done (j : Nat) : (dispatch j s).done = s.done := rfl
@[simp] theorem dispatch_err (j : Nat) : (dispatch j s).err = s.err := rfl
@[simp] theorem dispatch_aborted (j : Nat) : (dispatch j s).aborted = s.aborted := rfl
@[simp] theorem dispatch_errcode (j : Nat) : (dispatch j s).errcode = s.errcode := rfl
@[simp] theorem dispatch_lastop (j : Nat) : (dispatch j s).lastop = s.lastop := rfl
@[simp] theorem dispatch_key (j : Nat) : (dispatch j s).key = s.key := rfl
@[simp] theorem dispatch_din (j : Nat) : (dispatch j s).din = s.din := rfl
@[simp] theorem dispatch_target (j : Nat) : (dispatch j s).target = s.target := rfl
@[simp] theorem dispatch_dout (j : Nat) : (dispatch j s).dout = s.dout := rfl
@[simp] theorem dispatch_subK1 (j : Nat) : (dispatch j s).subK1 = s.subK1 := rfl
@[simp] theorem dispatch_subK2 (j : Nat) : (dispatch j s).subK2 = s.subK2 := rfl
@[simp] theorem dispatch_resIndex (j : Nat) : (dispatch j s).resIndex = s.resIndex := rfl
@[simp] theorem dispatch_op (j : Nat) : (dispatch j s).op = s.op := rfl
@[simp] theorem dispatch_opKey (j : Nat) : (dispatch j s).opKey = s.opKey := rfl
@[simp] theorem dispatch_opIn (j : Nat) : (dispatch j s).opIn = s.opIn := rfl
@[simp] theorem dispatch_opPt (j : Nat) : (dispatch j s).opPt = s.opPt := rfl
@[simp] theorem dispatch_nextKey (j : Nat) : (dispatch j s).nextKey = s.nextKey + 1 := rfl
@[simp] theorem dispatch_evaluated (j : Nat) : (dispatch j s).evaluated = s.evaluated := rfl
@[simp] theorem dispatch_cancel (j : Nat) : (dispatch j s).cancel = s.cancel := rfl
@[simp] theorem dispatch_lanes (j : Nat) : (dispatch j s).lanes = s.lanes.set j (.eval (seqOf 10 s.nextKey)) := rfl
@[simp] theorem dispatch_sink (j : Nat) : (dispatch j s).sink = s.sink := rfl
@[simp] theorem dispatch_count (j : Nat) : (dispatch j s).count = s.count := rfl
@[simp] theorem dispatch_map (j : Nat) : (dispatch j s).map = s.map := rfl
@[simp] theorem dispatch_time (j : Nat) : (dispatch j s).time = s.time := rfl
@[simp] theorem dispatch_script (j : Nat) : (dispatch j s).script = s.script := rfl
@[simp] theorem dispatch_record (j : Nat) : (dispatch j s).record = s.record := rfl
@[simp] theorem dispatch_schedule (j : Nat) : (dispatch j s).schedule = s.schedule := rfl
@[simp] theorem dispatch_draws (j : Nat) : (dispatch j s).draws = s.draws := rfl

@[simp] theorem join_cfg : (join s).cfg = s.cfg := rfl
@[simp] theorem join_doneIe : (join s).doneIe = s.doneIe := rfl
@[simp] theorem join_errIe : (join s).errIe = s.errIe := rfl
@[simp] theorem join_done : (join s).done = true := rfl
@[simp] theorem join_err : (join s).err = s.err := rfl
@[simp] theorem join_aborted : (join s).aborted = (s.cancel && decide (s.nextKey < 1024)) := rfl
@[simp] theorem join_errcode : (join s).errcode = s.errcode := rfl
@[simp] theorem join_lastop : (join s).lastop = s.lastop := rfl
@[simp] theorem join_key : (join s).key = s.key := rfl
@[simp] theorem join_din : (join s).din = s.din := rfl
@[simp] theorem join_target : (join s).target = s.target := rfl
@[simp] theorem join_dout : (join s).dout = s.dout := rfl
@[simp] theorem join_subK1 : (join s).subK1 = s.subK1 := rfl
@[simp] theorem join_subK2 : (join s).subK2 = s.subK2 := rfl
@[simp] theorem join_resIndex : (join s).resIndex = s.resIndex := rfl
@[simp] theorem join_op : (join s).op = none := rfl
@[simp] theorem join_opKey : (join s).opKey = s.opKey := rfl
@[simp] theorem join_opIn : (join s).opIn = s.opIn := rfl
@[simp] theorem join_opPt : (join s).opPt = s.opPt := rfl
@[simp] theorem join_nextKey : (join s).nextKey = s.nextKey := rfl
@[simp] theorem join_evaluated : (join s).evaluated = s.evaluated := rfl
@[simp] theorem join_cancel : (join s).cancel = false := rfl
@[simp] theorem join_lanes : (join s).lanes = s.lanes := rfl
@[simp] theorem join_sink : (join s).sink = s.sink := rfl
@[simp] theorem join_count : (join s).count = s.count := rfl
@[simp] theorem join_map : (join s).map = s.map := rfl
@[simp] theorem join_time : (join s).time = s.time := rfl
@[simp] theorem join_script : (join s).script = s.script := rfl
@[simp] theorem join_record : (join s).record = s.record := rfl
@[simp] theorem join_schedule : (join s).schedule = s.schedule := rfl
@[simp] theorem join_draws : (join s).draws = s.draws := rfl

@[simp] theorem tick_cfg : (tick s).cfg = s.cfg := rfl
@[simp] theorem tick_doneIe : (tick s).doneIe = s.doneIe := rfl
@[simp] theorem tick_errIe : (tick s).errIe = s.errIe := rfl
@[simp] theorem tick_done : (tick s).done = s.done := rfl
@[simp] theorem tick_err : (tick s).err = s.err := rfl
@[simp] theorem tick_aborted : (tick s).aborted = s.aborted := rfl
@[simp] theorem tick_errcode : (tick s).errcode = s.errcode := rfl
@[simp] theorem tick_lastop : (tick s).lastop = s.lastop := rfl
@[simp] theorem tick_key : (tick s).key = s.key := rfl
@[simp] theorem tick_din : (tick s).din = s.din := rfl
@[simp] theorem tick_target : (tick s).target = s.target := rfl
@[simp] theorem tick_dout : (tick s).dout = s.dout := rfl
@[simp] theorem tick_subK1 : (tick s).subK1 = s.subK1 := rfl
@[simp] theorem tick_subK2 : (tick s).subK2 = s.subK2 := rfl
@[simp] theorem tick_resIndex : (tick s).resIndex = s.resIndex := rfl
@[simp] theorem tick_op : (tick s).op = s.op := rfl
@[simp] theorem tick_opKey : (tick s).opKey = s.opKey := rfl
@[simp] theorem tick_opIn : (tick s).opIn = s.opIn := rfl
@[simp] theorem tick_opPt : (tick s).opPt = s.opPt := rfl
@[simp] theorem tick_nextKey : (tick s).nextKey = s.nextKey := rfl
@[simp] theorem tick_evaluated : (tick s).evaluated = s.evaluated := rfl
@[simp] theorem tick_cancel : (tick s).cancel = s.cancel := rfl
@[simp] theorem tick_lanes : (tick s).lanes = s.lanes := rfl
@[simp] theorem tick_sink : (tick s).sink = s.sink := rfl
@[simp] theorem tick_count : (tick s).count = s.count := rfl
@[simp] theorem tick_map : (tick s).map = s.map := rfl
@[simp] theorem tick_time : (tick s).time = s.time + 1#32 := rfl
@[simp] theorem tick_script : (tick s).script = s.script := rfl
@[simp] theorem tick_record : (tick s).record = s.record := rfl
@[simp] theorem tick_schedule : (tick s).schedule = s.schedule := rfl
@[simp] theorem tick_draws : (tick s).draws = s.draws := rfl

end Sys2Proof.Machine
end

