-- ==== Sys2Proof/Laws/Operands.lean ====
section
/-!
SUPPORT. The issue of a work command, case by case (rules R141, R143, R144, R352), and the command word in its two fields (rule R100).
-/

namespace Sys2Proof.Machine

theorem busy_iff (s : State) : s.busy = true ↔ s.op ≠ none := by simp [State.busy, Option.isSome_iff_ne_none]

theorem busy_eq_false_iff (s : State) : s.busy = false ↔ s.op = none := by simp [State.busy]

theorem issueWork_busy {s : State} (h : s.op ≠ none) (c : WorkCmd) : issueWork c s = raiseCmdError .busy s := by
  simp [issueWork, (busy_iff s).mpr h]

theorem issueWork_invalid {s : State} (h : s.op = none) {c : WorkCmd} (hw : widthsOk c s = false) :
    issueWork c s = raiseCmdError .invalidLength s := by
  simp [issueWork, (busy_eq_false_iff s).mpr h, hw]

theorem issueWork_accept {s : State} (h : s.op = none) {c : WorkCmd} (hw : widthsOk c s = true) :
    issueWork c s = accept c s := by
  simp [issueWork, (busy_eq_false_iff s).mpr h, hw]

/-- A work command's arm is its issue (rules R141, R182, R224, R226, R276). -/
theorem exec_work (c : WorkCmd) (s : State) : exec c.instr s = .next (issueWork c s) := by cases c <;> rfl

theorem keyFits_iff (s : State) : keyFits s = true ↔ s.key.extractLsb' 10 22 = 0#22 := by simp [keyFits]

theorem dinFits_iff (s : State) : dinFits s = true ↔ s.din.extractLsb' 8 24 = 0#24 := by simp [dinFits]

theorem targetFits_iff (s : State) : targetFits s = true ↔ s.target.extractLsb' 8 24 = 0#24 := by simp [targetFits]

/-- What each command checks (rule R144). -/
theorem widthsOk_eq (c : WorkCmd) (s : State) :
    widthsOk c s =
      match c with
      | .keysched => keyFits s
      | .encrypt => keyFits s && dinFits s
      | .decrypt => keyFits s && dinFits s
      | .search => dinFits s && targetFits s := by
  cases c <;> simp [widthsOk, WorkCmd.readsKey, WorkCmd.readsDin, WorkCmd.readsTarget]

/-- A command word is RSVZ and OP joined (rule R100). -/
theorem command_word_split (w : Word) : (rsvzField w ++ opField w : BitVec 32) = w := by
  unfold rsvzField opField
  exact BitVec.extractLsb'_append_extractLsb'_eq_extractLsb' (by rfl) |>.trans (by simp)

end Sys2Proof.Machine
end

