-- ==== Sys2Proof/Laws/Lanes.lean ====
section
/-!
SUPPORT. The lanes, the sink and MAP as lists of keys: what a dispatch and a lane step do to them (rules R278, R280), and the
counting of rule R57.
-/

namespace Sys2Proof.Machine

/-- The key a lane holds. -/
def laneKey? (l : Lane) : Option Key := match l with | .idle => none | .eval k => some k

theorem laneKeys_eq (s : State) : laneKeys s = s.lanes.filterMap laneKey? := rfl

theorem filterMap_at {α β : Type} (f : α → Option β) (l : List α) (j : Nat) (a : α) (h : l[j]? = some a) :
    (l.filterMap f).Perm ((f a).toList ++ ((l.take j).filterMap f ++ (l.drop (j + 1)).filterMap f)) := by
  obtain ⟨hj, rfl⟩ := List.getElem?_eq_some_iff.mp h
  have hl : l = l.take j ++ l[j] :: l.drop (j + 1) := by rw [List.cons_getElem_drop_succ, List.take_append_drop]
  have hf : l.filterMap f = (l.take j).filterMap f ++ ((f l[j]).toList ++ (l.drop (j + 1)).filterMap f) := by
    conv_lhs => rw [hl, List.filterMap_append]
    rw [List.filterMap_cons]
    cases hfa : f l[j] <;> rfl
  rw [hf, ← List.append_assoc, ← List.append_assoc]
  exact List.Perm.append_right _ List.perm_append_comm

theorem filterMap_set {α β : Type} (f : α → Option β) (l : List α) (j : Nat) (a b : α) (h : l[j]? = some a) :
    ((l.set j b).filterMap f).Perm ((f b).toList ++ ((l.take j).filterMap f ++ (l.drop (j + 1)).filterMap f)) := by
  have hj := (List.getElem?_eq_some_iff.mp h).1
  have hs : (l.set j b)[j]? = some b := by simp [hj]
  have := filterMap_at f (l.set j b) j b hs
  have ht : (List.take j l).set j b = List.take j l := List.set_eq_of_length_le (by simp)
  rwa [List.take_set, ht, List.drop_set, if_pos (by omega)] at this

/-- A key put into an idle lane joins the lanes' keys. -/
theorem laneKeys_set_eval (l : List Lane) (j : Nat) (k : Key) (h : l[j]? = some .idle) :
    ((l.set j (.eval k)).filterMap laneKey?).Perm (k :: l.filterMap laneKey?) := by
  have h1 := filterMap_set laneKey? l j .idle (.eval k) h
  have h2 := filterMap_at laneKey? l j .idle h
  exact h1.trans (List.Perm.cons k h2.symm)

/-- A lane made idle gives its key up. -/
theorem laneKeys_set_idle (l : List Lane) (j : Nat) (k : Key) (h : l[j]? = some (.eval k)) :
    (l.filterMap laneKey?).Perm (k :: (l.set j .idle).filterMap laneKey?) := by
  have h1 := filterMap_set laneKey? l j (.eval k) .idle h
  have h2 := filterMap_at laneKey? l j (.eval k) h
  exact h2.trans (List.Perm.cons k h1.symm)

/-- As many lanes are busy as keys are held. -/
theorem busyLanes_eq (s : State) : busyLanes s = (laneKeys s).length := by
  rw [busyLanes, laneKeys_eq]
  induction s.lanes with
  | nil => rfl
  | cons l ls ih =>
    rw [List.filterMap_cons]
    cases l <;> simp [laneKey?, ih]

theorem laneKeys_nil_iff (s : State) : laneKeys s = [] ↔ ∀ l ∈ s.lanes, l = .idle := by
  rw [laneKeys_eq, List.filterMap_eq_nil_iff]
  refine forall₂_congr fun l _ => ?_
  cases l <;> simp [laneKey?]

theorem key_toNat_inj {a b : Key} : a.toNat = b.toNat ↔ a = b := BitVec.toNat_inj

theorem seqOf_toNat {n : Nat} (h : n < 1024) : (seqOf 10 n).toNat = n := by
  simp [seqOf, Nat.mod_eq_of_lt h]

/-- Where MAP is the set of a list of distinct keys, it has as many ones as the list has entries (rule R57, 3). -/
theorem mapOnes_eq {s : State} {ks : List Key} (hm : ∀ k : Key, s.map.getLsbD k.toNat = true ↔ k ∈ ks) (hn : ks.Nodup) :
    mapOnes s = ks.length := by
  have hp : ((List.range 1024).filter (fun k => s.map.getLsbD k)).Perm (ks.map BitVec.toNat) := by
    rw [List.perm_ext_iff_of_nodup (List.nodup_range.filter _)
      (hn.map fun a b h => key_toNat_inj.mp h)]
    intro n
    simp only [List.mem_filter, List.mem_range, List.mem_map]
    constructor
    · rintro ⟨hn1, hb⟩
      exact ⟨seqOf 10 n, (hm _).mp (by rw [seqOf_toNat hn1]; exact hb), seqOf_toNat hn1⟩
    · rintro ⟨k, hk, rfl⟩
      exact ⟨k.isLt, (hm k).mpr hk⟩
  rw [mapOnes, List.countP_eq_length_filter, hp.length_eq, List.length_map]

/-- MAP with one more bit set (rule R280). -/
theorem map_append_iff (m : BitVec 1024) (k k' : Key) :
    (m ||| BitVec.twoPow 1024 k.toNat).getLsbD k'.toNat = true ↔ m.getLsbD k'.toNat = true ∨ k' = k := by
  have h1 := k.isLt
  have h2 : k.toNat < 1024 := h1
  simp only [BitVec.getLsbD_or, BitVec.getLsbD_twoPow, h2, decide_true, Bool.true_and, Bool.or_eq_true, decide_eq_true_eq]
  rw [key_toNat_inj, eq_comm (a := k)]

/-- A MAP of zeros holds no key. -/
theorem map_zero_getLsbD (n : Nat) : (0#1024).getLsbD n = false := by simp

end Sys2Proof.Machine
end

