-- ==== Sys2Proof/Laws/Invariants.lean ====
section
/-!
SUPPORT. What each shared operation does to the invariant `Inv` (rule R57 and what makes it inductive): one lemma per operation.
-/

namespace Sys2Proof.Machine

/-- The part of a state the search's invariants speak of is the same in both. -/
structure SameSearch (s s' : State) : Prop where
  cfg : s'.cfg = s.cfg
  op : s'.op = s.op
  opIn : s'.opIn = s.opIn
  opPt : s'.opPt = s.opPt
  nextKey : s'.nextKey = s.nextKey
  evaluated : s'.evaluated = s.evaluated
  cancel : s'.cancel = s.cancel
  lanes : s'.lanes = s.lanes
  sink : s'.sink = s.sink
  count : s'.count = s.count
  map : s'.map = s.map
  lastop : s'.lastop = s.lastop
  aborted : s'.aborted = s.aborted

theorem SameSearch.sinkKeys {s s' : State} (h : SameSearch s s') : sinkKeys s' = sinkKeys s := by
  simp only [Machine.sinkKeys, h.sink]

theorem SameSearch.laneKeys {s s' : State} (h : SameSearch s s') : laneKeys s' = laneKeys s := by
  simp only [laneKeys_eq, h.lanes]

theorem SameSearch.busyLanes {s s' : State} (h : SameSearch s s') : busyLanes s' = busyLanes s := by
  simp only [Machine.busyLanes, h.lanes]

/-- The flags of STATUS that no search state enters into. -/
structure FlagsKept (s : State) : Prop where
  notDoneWhileBusy : s.op ≠ none → s.done = false
  errHasCode : s.err = true ↔ s.errcode ≠ 0#4
  errcodeLegal : s.errcode = 0#4 ∨ s.errcode = 1#4 ∨ s.errcode = 3#4 ∨ s.errcode = 4#4

/-- An update of the flags, the host-written registers, the results of the cipher, TIME or the model's own fields keeps the invariant
where the flags stay legal. -/
theorem Inv.of_sameSearch {s s' : State} (h : Inv s) (e : SameSearch s s') (f : FlagsKept s') : Inv s' where
  config := by rw [e.cfg]; exact h.config
  laneCount := by rw [e.cfg, e.lanes]; exact h.laneCount
  spec :=
    { lanesIdle := by rw [e.op, e.lanes]; exact h.spec.lanesIdle
      dispatchedSplit := by rw [e.op, e.evaluated, e.busyLanes, e.nextKey]; exact h.spec.dispatchedSplit
      countIsOnes := by simp only [mapOnes, e.count, e.map]; exact h.spec.countIsOnes
      sinkDistinct := by rw [e.sinkKeys]; exact h.spec.sinkDistinct
      sinkBelow := by rw [e.sinkKeys, e.nextKey]; exact h.spec.sinkBelow
      noStaleCancel := by rw [e.op, e.cancel]; exact h.spec.noStaleCancel }
  allSplit := by rw [e.evaluated, e.busyLanes, e.nextKey]; exact h.allSplit
  nextKeyBound := by rw [e.nextKey]; exact h.nextKeyBound
  lanesDistinct := by rw [e.laneKeys]; exact h.lanesDistinct
  lanesBelow := by rw [e.laneKeys, e.nextKey]; exact h.lanesBelow
  lanesNotInSink := by rw [e.laneKeys, e.sinkKeys]; exact h.lanesNotInSink
  mapIsSink := by rw [e.map, e.sinkKeys]; exact h.mapIsSink
  countIsLength := by rw [e.count, e.sink]; exact h.countIsLength
  cancelOnlySearch := by rw [e.cancel, e.op]; exact h.cancelOnlySearch
  lastopInFlight := by rw [e.op, e.lastop]; exact h.lastopInFlight
  notDoneWhileBusy := by
    intro hop
    exact ⟨f.notDoneWhileBusy hop, by rw [e.aborted]; exact (h.notDoneWhileBusy (by rwa [e.op] at hop)).2⟩
  errHasCode := f.errHasCode
  errcodeLegal := f.errcodeLegal
  lastopLegal := by rw [e.lastop]; exact h.lastopLegal
  endedSearch := by rw [e.lastop, e.op, e.aborted, e.nextKey]; exact h.endedSearch
  searchMap := by
    simp only [evaluatedKey, e.lastop, e.map, e.nextKey, e.laneKeys, e.cfg, e.opPt, e.opIn]
    exact h.searchMap
  singleLaneAscending := by rw [e.cfg, e.sinkKeys, e.laneKeys]; exact h.singleLaneAscending

theorem Inv.flagsKept {s : State} (h : Inv s) : FlagsKept s where
  notDoneWhileBusy := fun ho => (h.notDoneWhileBusy ho).1
  errHasCode := h.errHasCode
  errcodeLegal := h.errcodeLegal

/-- A rejection by one of the block's three causes (rule R146). -/
theorem Inv.raiseCmdError {s : State} (h : Inv s) {e : CmdError} (he : e ≠ .invalidSymbol) : Inv (raiseCmdError e s) :=
  h.of_sameSearch (by constructor <;> rfl)
    { notDoneWhileBusy := h.flagsKept.notDoneWhileBusy
      errHasCode := by cases e <;> simp [CmdError.code]
      errcodeLegal := by cases e <;> simp_all [CmdError.code] }

theorem Inv.clearError {s : State} (h : Inv s) : Inv (clearError s) :=
  h.of_sameSearch (by constructor <;> rfl)
    { notDoneWhileBusy := h.flagsKept.notDoneWhileBusy, errHasCode := by simp, errcodeLegal := by simp }

theorem Inv.clearDone {s : State} (h : Inv s) : Inv (clearDone s) :=
  h.of_sameSearch (by constructor <;> rfl)
    { notDoneWhileBusy := fun _ => rfl, errHasCode := h.errHasCode, errcodeLegal := h.errcodeLegal }

theorem Inv.writeStatus {s : State} (h : Inv s) (v : Word) : Inv (writeStatus v s) := by
  unfold Machine.writeStatus
  dsimp only
  split <;> split
  · exact h.clearDone.clearError
  · exact h.clearError
  · exact h.clearDone
  · exact h

/-- A host write to a register other than CMD (rules R33 to R49). -/
theorem Inv.writeReg {s : State} (h : Inv s) (r : Reg) (v : Word) : Inv (writeReg r v s) := by
  cases r
  case status => exact h.writeStatus v
  all_goals
    first
      | exact h
      | exact h.of_sameSearch (by constructor <;> rfl)
          { notDoneWhileBusy := h.flagsKept.notDoneWhileBusy, errHasCode := h.errHasCode, errcodeLegal := h.errcodeLegal }

/-- The model's own fields: the host's script and record, the schedule and the count of draws. -/
theorem Inv.ownFields {s : State} (h : Inv s) (script : List HostOp) (record : List Reading) (schedule : List Agent)
    (draws : Nat) : Inv { s with script := script, record := record, schedule := schedule, draws := draws } :=
  h.of_sameSearch (by constructor <;> rfl)
    { notDoneWhileBusy := h.flagsKept.notDoneWhileBusy, errHasCode := h.errHasCode, errcodeLegal := h.errcodeLegal }

/-- A clock step (rule R288). -/
theorem Inv.tick {s : State} (h : Inv s) : Inv (tick s) :=
  h.of_sameSearch (by constructor <;> rfl)
    { notDoneWhileBusy := h.flagsKept.notDoneWhileBusy, errHasCode := h.errHasCode, errcodeLegal := h.errcodeLegal }

/-- With no command in flight every lane is idle (rule R57, 1). -/
theorem Inv.laneKeys_nil {s : State} (h : Inv s) (ho : s.op ≠ some .search) : laneKeys s = [] :=
  (laneKeys_nil_iff s).mpr (h.spec.lanesIdle.resolve_left ho)

theorem Inv.cancel_false {s : State} (h : Inv s) (ho : s.op ≠ some .search) : s.cancel = false := by
  cases hc : s.cancel
  · rfl
  · exact absurd (h.cancelOnlySearch hc) ho

theorem WorkCmd.opcode_ne_four {c : WorkCmd} (hc : c ≠ .search) : c.opcode ≠ 4#4 := by
  cases c <;> simp_all [WorkCmd.opcode, WorkCmd.instr, Instr.opcode]

theorem WorkCmd.opcode_le (c : WorkCmd) : c.opcode.toNat ≤ 4 := by
  cases c <;> decide

theorem WorkCmd.opcode_inj {c d : WorkCmd} (h : c.opcode = d.opcode) : c = d := by
  revert h; cases c <;> cases d <;> decide

/-- Acceptance of KEYSCHED, ENCRYPT or DECRYPT: no search state changes (rule R143). -/
theorem accept_cipher {c : WorkCmd} (hc : c ≠ .search) (s : State) :
    accept c s = { latchOperands c s with op := some c, done := false, aborted := false, lastop := c.opcode } := by
  simp [accept, hc]

theorem Inv.acceptCipher {s : State} (h : Inv s) (ho : s.op = none) {c : WorkCmd} (hc : c ≠ .search) : Inv (accept c s) := by
  rw [accept_cipher hc]
  have hns : s.op ≠ some .search := by rw [ho]; simp
  exact
    { config := h.config
      laneCount := h.laneCount
      spec :=
        { lanesIdle := .inr (h.spec.lanesIdle.resolve_left hns)
          dispatchedSplit := fun _ => h.allSplit
          countIsOnes := h.spec.countIsOnes
          sinkDistinct := h.spec.sinkDistinct
          sinkBelow := h.spec.sinkBelow
          noStaleCancel := fun _ => h.cancel_false hns }
      allSplit := h.allSplit
      nextKeyBound := h.nextKeyBound
      lanesDistinct := h.lanesDistinct
      lanesBelow := h.lanesBelow
      lanesNotInSink := h.lanesNotInSink
      mapIsSink := h.mapIsSink
      countIsLength := h.countIsLength
      cancelOnlySearch := fun hcan => absurd (h.cancel_false hns) (by simpa using hcan)
      lastopInFlight := by intro d hd; cases hd; rfl
      notDoneWhileBusy := fun _ => ⟨rfl, rfl⟩
      errHasCode := h.errHasCode
      errcodeLegal := h.errcodeLegal
      lastopLegal := c.opcode_le
      endedSearch := fun hl => absurd hl (WorkCmd.opcode_ne_four hc)
      searchMap := fun hl => absurd hl (WorkCmd.opcode_ne_four hc)
      singleLaneAscending := h.singleLaneAscending }

/-- Acceptance of SEARCH (rules R143, R276). -/
theorem Inv.acceptSearch {s : State} (h : Inv s) (ho : s.op = none) : Inv (accept .search s) := by
  have hns : s.op ≠ some .search := by rw [ho]; simp
  have hl : laneKeys (accept .search s) = [] := h.laneKeys_nil hns
  have hb : busyLanes (accept .search s) = 0 := by rw [busyLanes_eq, hl]; rfl
  exact
    { config := h.config
      laneCount := h.laneCount
      spec :=
        { lanesIdle := .inl rfl
          dispatchedSplit := fun _ => by rw [hb]; rfl
          countIsOnes := by
            rw [mapOnes_eq (ks := []) (fun k => by simp [accept, searchStart]) List.nodup_nil]; rfl
          sinkDistinct := List.nodup_nil
          sinkBelow := by intro k hk; cases hk
          noStaleCancel := fun _ => rfl }
      allSplit := by rw [hb]; rfl
      nextKeyBound := Nat.zero_le _
      lanesDistinct := by rw [hl]; exact List.nodup_nil
      lanesBelow := by rw [hl]; simp
      lanesNotInSink := by rw [hl]; simp
      mapIsSink := by intro k; simp [accept, searchStart, sinkKeys]
      countIsLength := rfl
      cancelOnlySearch := fun _ => rfl
      lastopInFlight := by intro d hd; cases hd; rfl
      notDoneWhileBusy := fun _ => ⟨rfl, rfl⟩
      errHasCode := h.errHasCode
      errcodeLegal := h.errcodeLegal
      lastopLegal := WorkCmd.opcode_le .search
      endedSearch := by intro _ hop; cases hop
      searchMap := by
        intro _ k
        simp [accept, searchStart, evaluatedKey]
      singleLaneAscending := by rw [hl]; intro _; exact List.Pairwise.nil }

theorem Inv.accept {s : State} (h : Inv s) (ho : s.op = none) (c : WorkCmd) : Inv (accept c s) := by
  by_cases hc : c = .search
  · subst hc; exact h.acceptSearch ho
  · exact h.acceptCipher ho hc

/-- The issue of a work command (rule R141). -/
theorem Inv.issueWork {s : State} (h : Inv s) (c : WorkCmd) : Inv (issueWork c s) := by
  unfold Machine.issueWork State.busy
  split
  · exact h.raiseCmdError (by decide)
  · split
    · exact h.accept (by simp_all) c
    · exact h.raiseCmdError (by decide)

/-- ABORT's request (rule R284). -/
theorem Inv.abortRequest {s : State} (h : Inv s) : Inv (abortRequest s) := by
  unfold Machine.abortRequest
  split
  · rename_i ho
    exact
      { config := h.config, laneCount := h.laneCount
        spec :=
          { lanesIdle := h.spec.lanesIdle, dispatchedSplit := h.spec.dispatchedSplit, countIsOnes := h.spec.countIsOnes
            sinkDistinct := h.spec.sinkDistinct, sinkBelow := h.spec.sinkBelow
            noStaleCancel := fun hn => absurd (hn.symm.trans ho) (by simp) }
        allSplit := h.allSplit, nextKeyBound := h.nextKeyBound, lanesDistinct := h.lanesDistinct, lanesBelow := h.lanesBelow
        lanesNotInSink := h.lanesNotInSink, mapIsSink := h.mapIsSink, countIsLength := h.countIsLength
        cancelOnlySearch := fun _ => ho
        lastopInFlight := h.lastopInFlight, notDoneWhileBusy := h.notDoneWhileBusy, errHasCode := h.errHasCode
        errcodeLegal := h.errcodeLegal, lastopLegal := h.lastopLegal, endedSearch := h.endedSearch
        searchMap := h.searchMap, singleLaneAscending := h.singleLaneAscending }
  · exact h

/-- The end of a cipher command: OP is NONE, DONE is 1, and its results are in DOUT and SUBKEYS (rule R148). -/
theorem Inv.finishCipher {s : State} (h : Inv s) {c : WorkCmd} (ho : s.op = some c) (hc : c ≠ .search)
    (dout k1 k2 : Block) : Inv { s with dout := dout, subK1 := k1, subK2 := k2, op := none, done := true } := by
  have hns : s.op ≠ some .search := by rw [ho]; simpa using hc
  have hl4 : s.lastop ≠ 4#4 := by rw [h.lastopInFlight c ho]; exact WorkCmd.opcode_ne_four hc
  exact
    { config := h.config, laneCount := h.laneCount
      spec :=
        { lanesIdle := .inr (h.spec.lanesIdle.resolve_left hns), dispatchedSplit := fun _ => h.allSplit
          countIsOnes := h.spec.countIsOnes, sinkDistinct := h.spec.sinkDistinct, sinkBelow := h.spec.sinkBelow
          noStaleCancel := fun _ => h.cancel_false hns }
      allSplit := h.allSplit, nextKeyBound := h.nextKeyBound, lanesDistinct := h.lanesDistinct, lanesBelow := h.lanesBelow
      lanesNotInSink := h.lanesNotInSink, mapIsSink := h.mapIsSink, countIsLength := h.countIsLength
      cancelOnlySearch := fun hcan => absurd (h.cancel_false hns) (by simpa using hcan)
      lastopInFlight := by intro d hd; cases hd
      notDoneWhileBusy := fun hn => absurd rfl hn
      errHasCode := h.errHasCode, errcodeLegal := h.errcodeLegal, lastopLegal := h.lastopLegal
      endedSearch := fun hl => absurd hl hl4
      searchMap := fun hl => absurd hl hl4
      singleLaneAscending := h.singleLaneAscending }

/-- A dispatch step where it is enabled (rule R278). -/
theorem Inv.dispatch {s : State} (h : Inv s) {j : Nat} (he : dispatchEnabled j s = true) : Inv (dispatch j s) := by
  simp only [dispatchEnabled, Bool.and_eq_true, beq_iff_eq, Bool.not_eq_true', decide_eq_true_eq] at he
  obtain ⟨⟨⟨ho, -⟩, hlt⟩, hj⟩ := he
  have hk := seqOf_toNat hlt
  have hp : (laneKeys (Machine.dispatch j s)).Perm (seqOf 10 s.nextKey :: laneKeys s) := laneKeys_set_eval s.lanes j _ hj
  have hmem : ∀ k, k ∈ laneKeys (Machine.dispatch j s) ↔ k = seqOf 10 s.nextKey ∨ k ∈ laneKeys s := by
    intro k; rw [hp.mem_iff, List.mem_cons]
  have hb : busyLanes (Machine.dispatch j s) = busyLanes s + 1 := by rw [busyLanes_eq, busyLanes_eq, hp.length_eq]; rfl
  have hsplit : s.evaluated + busyLanes (Machine.dispatch j s) = s.nextKey + 1 := by rw [hb, ← h.allSplit]; omega
  have hfresh : ∀ k, k = seqOf 10 s.nextKey → k.toNat = s.nextKey := by rintro k rfl; exact hk
  have hsink : ∀ k ∈ sinkKeys s, k.toNat < s.nextKey := h.spec.sinkBelow
  have hbusy : s.op ≠ none := by rw [ho]; simp
  exact
    { config := h.config
      laneCount := by rw [dispatch_lanes, List.length_set]; exact h.laneCount
      spec :=
        { lanesIdle := .inl ho, dispatchedSplit := fun _ => hsplit
          countIsOnes := h.spec.countIsOnes, sinkDistinct := h.spec.sinkDistinct
          sinkBelow := fun k hk' => Nat.lt_succ_of_lt (hsink k hk')
          noStaleCancel := h.spec.noStaleCancel }
      allSplit := hsplit
      nextKeyBound := hlt
      lanesDistinct := by
        rw [hp.nodup_iff, List.nodup_cons]
        exact ⟨fun hm => Nat.lt_irrefl _ (hk ▸ h.lanesBelow _ hm), h.lanesDistinct⟩
      lanesBelow := by
        intro k hk'
        rcases (hmem k).mp hk' with h1 | h1
        · rw [hfresh k h1]; exact Nat.lt_succ_self _
        · exact Nat.lt_succ_of_lt (h.lanesBelow k h1)
      lanesNotInSink := by
        intro k hk' hs
        rcases (hmem k).mp hk' with h1 | h1
        · exact Nat.lt_irrefl _ (hfresh k h1 ▸ hsink k hs)
        · exact h.lanesNotInSink k h1 hs
      mapIsSink := h.mapIsSink, countIsLength := h.countIsLength, cancelOnlySearch := h.cancelOnlySearch
      lastopInFlight := h.lastopInFlight, notDoneWhileBusy := h.notDoneWhileBusy, errHasCode := h.errHasCode
      errcodeLegal := h.errcodeLegal, lastopLegal := h.lastopLegal
      endedSearch := fun _ hn => absurd hn hbusy
      searchMap := by
        intro hl k
        rw [dispatch_map, h.searchMap hl k]
        refine and_congr_left fun _ => ?_
        simp only [evaluatedKey, hmem, dispatch_nextKey]
        constructor
        · rintro ⟨h1, h2⟩
          exact ⟨by omega, by rintro (h3 | h3); exacts [by have := hfresh k h3; omega, h2 h3]⟩
        · rintro ⟨h1, h2⟩
          refine ⟨?_, fun h3 => h2 (.inr h3)⟩
          rcases Nat.lt_succ_iff_lt_or_eq.mp h1 with h3 | h3
          · exact h3
          · exact absurd (.inl (key_toNat_inj.mp (h3.trans hk.symm))) h2
      singleLaneAscending := by
        intro h1
        have hnil : laneKeys s = [] := by
          have hlen : s.lanes.length = 1 := h.laneCount.trans h1
          obtain ⟨l, hl⟩ := List.length_eq_one_iff.mp hlen
          have hj0 : j = 0 := by
            have := (List.getElem?_eq_some_iff.mp hj).1
            omega
          subst hj0
          rw [hl] at hj
          rw [laneKeys_eq, hl]
          simp at hj
          simp [hj, laneKey?]
        have hp' : laneKeys (Machine.dispatch j s) = [seqOf 10 s.nextKey] := by
          rw [hnil] at hp; exact List.perm_singleton.mp hp
        have h0 := h.singleLaneAscending h1
        rw [hnil, List.append_nil] at h0
        rw [hp', List.pairwise_append]
        refine ⟨h0, List.pairwise_singleton _ _, ?_⟩
        intro a ha b hb'
        rw [List.mem_singleton.mp hb', hk]
        exact hsink a ha }

/-- The lanes after a lane step (rule R280). -/
theorem evaluateKey_laneKeys {s : State} {j : Nat} {k : Key} (hj : s.lanes[j]? = some (.eval k)) :
    (laneKeys s).Perm (k :: laneKeys (evaluateKey j k s)) := by
  have hl : (evaluateKey j k s).lanes = s.lanes.set j .idle := by
    simp only [evaluateKey]; split <;> rfl
  rw [laneKeys_eq, laneKeys_eq, hl]
  exact laneKeys_set_idle s.lanes j k hj

/-- The fields a lane step leaves as they are (rule R280). -/
theorem evaluateKey_frame (j : Nat) (k : Key) (s : State) :
    evaluateKey j k s =
      { s with
        evaluated := s.evaluated + 1
        lanes := s.lanes.set j .idle
        sink := if keyMatches s.cfg.tables s.opPt s.opIn k then s.sink ++ [⟨k, s.time⟩] else s.sink
        count := if keyMatches s.cfg.tables s.opPt s.opIn k then s.count + 1 else s.count
        map := if keyMatches s.cfg.tables s.opPt s.opIn k then s.map ||| BitVec.twoPow 1024 k.toNat else s.map } := by
  simp only [evaluateKey]; split <;> rfl

/-- A lane step where it is enabled (rule R280). -/
theorem Inv.evaluateKey {s : State} (h : Inv s) {j : Nat} {k : Key} (hj : s.lanes[j]? = some (.eval k)) :
    Inv (evaluateKey j k s) := by
  have hp := evaluateKey_laneKeys hj
  have hfr := evaluateKey_frame j k s
  set s' := Machine.evaluateKey j k s with hs'
  have hkin : k ∈ laneKeys s := hp.mem_iff.mpr (List.mem_cons_self ..)
  have ho : s.op = some .search := by
    rcases h.spec.lanesIdle with h1 | h1
    · exact h1
    · rw [← laneKeys_nil_iff] at h1; rw [h1] at hkin; cases hkin
  have hnd : k ∉ laneKeys s' ∧ (laneKeys s').Nodup := List.nodup_cons.mp (hp.nodup_iff.mp h.lanesDistinct)
  have hsub : ∀ k', k' ∈ laneKeys s' → k' ∈ laneKeys s := fun k' hk' => hp.mem_iff.mpr (List.mem_cons_of_mem _ hk')
  have hmem : ∀ k', k' ∈ laneKeys s ↔ k' = k ∨ k' ∈ laneKeys s' := by
    intro k'; rw [hp.mem_iff, List.mem_cons]
  have hb : busyLanes s = busyLanes s' + 1 := by rw [busyLanes_eq, busyLanes_eq, hp.length_eq]; rfl
  have hksink : k ∉ sinkKeys s := h.lanesNotInSink k hkin
  have hcfg : s'.cfg = s.cfg := by rw [hfr]
  have hop : s'.op = some .search := by rw [hfr]; exact ho
  have hnk : s'.nextKey = s.nextKey := by rw [hfr]
  have hev : s'.evaluated = s.evaluated + 1 := by rw [hfr]
  have hsk : sinkKeys s' = if keyMatches s.cfg.tables s.opPt s.opIn k then sinkKeys s ++ [k] else sinkKeys s := by
    rw [hfr]; simp only [sinkKeys]; split <;> simp
  have hskmem : ∀ k', k' ∈ sinkKeys s' ↔
      k' ∈ sinkKeys s ∨ (k' = k ∧ keyMatches s.cfg.tables s.opPt s.opIn k = true) := by
    intro k'; rw [hsk]; split <;> simp_all
  have hsd : (sinkKeys s').Nodup := by
    rw [hsk]; split
    · exact List.nodup_append.mpr ⟨h.spec.sinkDistinct, List.nodup_singleton _, by
        intro a ha b hb'; rw [List.mem_singleton.mp hb']; rintro rfl; exact hksink ha⟩
    · exact h.spec.sinkDistinct
  have hmap : ∀ k' : Key, s'.map.getLsbD k'.toNat = true ↔
      s.map.getLsbD k'.toNat = true ∨ (k' = k ∧ keyMatches s.cfg.tables s.opPt s.opIn k = true) := by
    intro k'; rw [hfr]; dsimp only; split
    · rename_i hm; rw [map_append_iff]; simp [hm]
    · rename_i hm; simp [hm]
  have hms : ∀ k' : Key, s'.map.getLsbD k'.toNat = true ↔ k' ∈ sinkKeys s' := by
    intro k'; rw [hmap, hskmem, h.mapIsSink]
  have hcl : s'.count = s'.sink.length := by
    rw [hfr]; dsimp only; split <;> simp [h.countIsLength]
  have hsplit : s'.evaluated + busyLanes s' = s'.nextKey := by rw [hev, hnk, ← h.allSplit, hb]; omega
  exact
    { config := by rw [hcfg]; exact h.config
      laneCount := by rw [hfr]; simp only [List.length_set]; exact h.laneCount
      spec :=
        { lanesIdle := .inl hop, dispatchedSplit := fun _ => hsplit
          countIsOnes := by
            rw [mapOnes_eq hms hsd, hcl]; simp [sinkKeys]
          sinkDistinct := hsd
          sinkBelow := by
            intro k' hk'
            rw [hnk]
            rcases (hskmem k').mp hk' with h1 | ⟨rfl, -⟩
            · exact h.spec.sinkBelow k' h1
            · exact h.lanesBelow _ hkin
          noStaleCancel := by rw [hop]; intro hn; cases hn }
      allSplit := hsplit
      nextKeyBound := by rw [hnk]; exact h.nextKeyBound
      lanesDistinct := hnd.2
      lanesBelow := fun k' hk' => by rw [hnk]; exact h.lanesBelow k' (hsub k' hk')
      lanesNotInSink := by
        intro k' hk' hs
        rcases (hskmem k').mp hs with h1 | ⟨rfl, -⟩
        · exact h.lanesNotInSink k' (hsub k' hk') h1
        · exact hnd.1 hk'
      mapIsSink := hms
      countIsLength := hcl
      cancelOnlySearch := fun _ => hop
      lastopInFlight := by
        intro c hc; rw [hop] at hc; rw [hfr]; exact h.lastopInFlight c (ho.trans hc)
      notDoneWhileBusy := by rw [hfr]; exact h.notDoneWhileBusy
      errHasCode := by rw [hfr]; exact h.errHasCode
      errcodeLegal := by rw [hfr]; exact h.errcodeLegal
      lastopLegal := by rw [hfr]; exact h.lastopLegal
      endedSearch := by rw [hop]; intro _ hn; cases hn
      searchMap := by
        have hlast : s'.lastop = s.lastop := by rw [hfr]
        have hpt : s'.opPt = s.opPt := by rw [hfr]
        have hin : s'.opIn = s.opIn := by rw [hfr]
        intro hl k'
        rw [hlast] at hl
        rw [hmap, h.searchMap hl k', hcfg, hpt, hin]
        simp only [evaluatedKey, hnk, hmem]
        by_cases hkk : k' = k
        · subst hkk
          have := h.lanesBelow k' hkin
          simp [this, hnd.1]
        · simp [hkk]
      singleLaneAscending := by
        intro h1
        rw [hcfg] at h1
        have h0 := h.singleLaneAscending h1
        have hlen : s.lanes.length = 1 := h.laneCount.trans h1
        have hnil : laneKeys s' = [] := by
          have h2 : (laneKeys s).length ≤ 1 := by
            rw [laneKeys_eq, ← hlen]; exact List.length_filterMap_le _ _
          have h3 := hp.length_eq
          exact List.eq_nil_of_length_eq_zero (by simp at h3; omega)
        have hone : laneKeys s = [k] := by rw [hnil] at hp; exact List.perm_singleton.mp hp
        rw [hone] at h0
        rw [hnil, List.append_nil, hsk]
        split
        · exact h0
        · exact (List.pairwise_append.mp h0).1 }

/-- The join where it is enabled (rule R286). -/
theorem Inv.join {s : State} (h : Inv s) (he : joinEnabled s = true) : Inv (join s) := by
  simp only [joinEnabled, Bool.and_eq_true, Bool.or_eq_true, beq_iff_eq, List.all_eq_true] at he
  obtain ⟨⟨ho, hidle⟩, hend⟩ := he
  exact
    { config := h.config, laneCount := h.laneCount
      spec :=
        { lanesIdle := .inr hidle, dispatchedSplit := fun _ => h.allSplit
          countIsOnes := h.spec.countIsOnes, sinkDistinct := h.spec.sinkDistinct, sinkBelow := h.spec.sinkBelow
          noStaleCancel := fun _ => rfl }
      allSplit := h.allSplit, nextKeyBound := h.nextKeyBound, lanesDistinct := h.lanesDistinct, lanesBelow := h.lanesBelow
      lanesNotInSink := h.lanesNotInSink, mapIsSink := h.mapIsSink, countIsLength := h.countIsLength
      cancelOnlySearch := fun hcan => absurd hcan (by simp)
      lastopInFlight := by intro d hd; cases hd
      notDoneWhileBusy := fun hn => absurd rfl hn
      errHasCode := h.errHasCode, errcodeLegal := h.errcodeLegal, lastopLegal := h.lastopLegal
      endedSearch := by
        intro _ _
        have := h.nextKeyBound
        rcases hend with h1 | h1
        · simp [h1]
        · simp [h1]
      searchMap := h.searchMap, singleLaneAscending := h.singleLaneAscending }

/-- The block at rest: no command in flight or accepted yet, no results, no error (the values of rule R59). -/
structure AtRest (s : State) : Prop where
  op : s.op = none
  lanes : ∀ l ∈ s.lanes, l = .idle
  nextKey : s.nextKey = 0
  evaluated : s.evaluated = 0
  cancel : s.cancel = false
  sink : s.sink = []
  count : s.count = 0
  map : s.map = 0#1024
  err : s.err = false
  errcode : s.errcode = 0#4
  lastop : s.lastop = 0#4

/-- A block at rest under a configuration the model runs, with as many lanes as it says, meets the invariant. -/
theorem AtRest.inv {s : State} (r : AtRest s) (hc : s.cfg.wellFormed = true) (hn : s.lanes.length = s.cfg.nLanes) : Inv s := by
  have hl : laneKeys s = [] := (laneKeys_nil_iff _).mpr r.lanes
  have hb : busyLanes s = 0 := by rw [busyLanes_eq, hl]; rfl
  have hs : sinkKeys s = [] := by simp [sinkKeys, r.sink]
  have hm : ∀ k : Key, s.map.getLsbD k.toNat = true ↔ k ∈ ([] : List Key) := fun k => by simp [r.map]
  have h4 : ¬ s.lastop = 4#4 := by rw [r.lastop]; decide
  exact
    { config := hc, laneCount := hn
      spec :=
        { lanesIdle := .inr r.lanes, dispatchedSplit := fun ho => absurd (r.op.symm.trans ho) (by simp)
          countIsOnes := by rw [mapOnes_eq hm List.nodup_nil, r.count]; rfl
          sinkDistinct := by rw [hs]; exact List.nodup_nil
          sinkBelow := by rw [hs]; simp
          noStaleCancel := fun _ => r.cancel }
      allSplit := by rw [hb, r.evaluated, r.nextKey]
      nextKeyBound := by rw [r.nextKey]; exact Nat.zero_le _
      lanesDistinct := by rw [hl]; exact List.nodup_nil
      lanesBelow := by rw [hl]; simp
      lanesNotInSink := by rw [hl]; simp
      mapIsSink := by rw [hs]; exact hm
      countIsLength := by rw [r.count, r.sink]; rfl
      cancelOnlySearch := fun hcan => absurd (r.cancel.symm.trans hcan) (by simp)
      lastopInFlight := fun c hc => absurd (r.op.symm.trans hc) (by simp)
      notDoneWhileBusy := fun ho => absurd r.op ho
      errHasCode := by simp [r.err, r.errcode]
      errcodeLegal := .inl r.errcode
      lastopLegal := by rw [r.lastop]; exact Nat.zero_le _
      endedSearch := fun hl4 => absurd hl4 h4
      searchMap := fun hl4 => absurd hl4 h4
      singleLaneAscending := by rw [hs, hl]; intro _; exact List.Pairwise.nil }

/-- The reset step (rule R380). -/
theorem Inv.platformTurn {s : State} (h : Inv s) : Inv (platformTurn s) :=
  AtRest.inv (by constructor <;> first | rfl | exact fun l hl => List.eq_of_mem_replicate hl) h.config List.length_replicate

/-- The command unit's turn (rules R148, R286). -/
theorem Inv.commandUnitTurn {s : State} (h : Inv s) : Inv (commandUnitTurn s) := by
  unfold Machine.commandUnitTurn
  split
  · exact h
  · rename_i ho; exact h.finishCipher ho (by decide) s.dout _ _
  · rename_i ho; exact h.finishCipher ho (by decide) _ _ _
  · rename_i ho; exact h.finishCipher ho (by decide) _ _ _
  · split
    · rename_i he; exact h.join he
    · exact h

theorem Inv.dispatcherTurn {s : State} (h : Inv s) (j : Nat) : Inv (dispatcherTurn j s) := by
  unfold Machine.dispatcherTurn
  split
  · rename_i he; exact h.dispatch he
  · exact h

theorem Inv.laneTurn {s : State} (h : Inv s) (j : Nat) : Inv (laneTurn j s) := by
  unfold Machine.laneTurn
  split
  · rename_i k hj; exact h.evaluateKey hj
  · exact h
  · exact h

theorem Inv.clockTurn {s : State} (h : Inv s) : Inv (clockTurn s) := by
  unfold Machine.clockTurn
  split
  · exact h.tick
  · exact h

end Sys2Proof.Machine
end

