-- ==== Sys2Proof/Laws/Step.lean ====
section
/-!
SUPPORT. What a step can do, said once: the cases of a command, of a host write, of the host's turn, and of a step.
-/

namespace Sys2Proof.Machine

/-- A command answers a next state, one of three kinds (rules R141, R150, R284). -/
theorem exec_cases (i : Instr) (s : State) :
    ∃ t, exec i s = .next t ∧ (t = s ∨ (∃ c, t = issueWork c s) ∨ t = abortRequest s) := by
  cases i
  · exact ⟨_, rfl, .inl rfl⟩
  · exact ⟨_, rfl, .inr (.inl ⟨_, rfl⟩)⟩
  · exact ⟨_, rfl, .inr (.inl ⟨_, rfl⟩)⟩
  · exact ⟨_, rfl, .inr (.inl ⟨_, rfl⟩)⟩
  · exact ⟨_, rfl, .inr (.inl ⟨_, rfl⟩)⟩
  · exact ⟨_, rfl, .inr (.inr rfl)⟩

/-- A write to the window answers a next state: an issue, an illegal word's rejection, or a register's write (rules R76, R141). -/
theorem memWrite_cases (off : Nat) (v : Word) (s : State) :
    ∃ t, memWrite off v s = .next t ∧
      (t = s ∨ (∃ c, t = issueWork c s) ∨ t = abortRequest s ∨ t = raiseCmdError .illegalCmd s ∨ ∃ r, t = writeReg r v s) := by
  unfold memWrite
  split
  · unfold issue
    split
    · rename_i i _
      obtain ⟨t, ht, h | h | h⟩ := exec_cases i s
      · exact ⟨t, ht, .inl h⟩
      · exact ⟨t, ht, .inr (.inl h)⟩
      · exact ⟨t, ht, .inr (.inr (.inl h))⟩
    · exact ⟨_, rfl, .inr (.inr (.inr (.inl rfl)))⟩
  · rename_i r _ _
    exact ⟨_, rfl, .inr (.inr (.inr (.inr ⟨r, rfl⟩)))⟩
  · exact ⟨_, rfl, .inl rfl⟩

theorem admitted_next {off width : Nat} {o : Host.Outcome State Fault Refusal} {t : State}
    (h : admitted off width o = .next t) : o = .next t ∧ off < 512 ∧ off % 4 = 0 ∧ width = 4 := by
  unfold admitted at h
  split at h
  · cases h
  · split at h
    · rename_i h1 h2; exact ⟨h, by omega, h2⟩
    · cases h

/-- An admitted access has its effect (rules R70, R74). -/
theorem admitted_of_wellFormed {off : Nat} (h : offsetWellFormed off = true) (o : Host.Outcome State Fault Refusal) :
    admitted off 4 o = o := by
  simp only [offsetWellFormed, Bool.and_eq_true, decide_eq_true_eq, beq_iff_eq] at h
  simp [admitted, Nat.not_le.mpr h.1, h.2]

/-- The head of a host's script writes `v` at `off`: as given, or as the value recorded for another register (rule R107). -/
def WritesNext (s : State) (off : Nat) (v : Word) (rest : List HostOp) : Prop :=
  s.script = .write off 4 v :: rest ∨ ∃ src, s.script = .copy off src :: rest ∧ recorded src s.record = some v

/-- A recorded value is used where there is one (rule R107). -/
theorem withRecorded_some {src : Nat} {s : State} {v : Word} (h : recorded src s.record = some v)
    (use : Word → Host.Outcome State Fault Refusal) : withRecorded src s use = use v := by simp only [withRecorded, h]

theorem withRecorded_none {src : Nat} {s : State} (h : recorded src s.record = none)
    (use : Word → Host.Outcome State Fault Refusal) : withRecorded src s use = .refused (.unreadValue src) := by
  simp only [withRecorded, h]

theorem withRecorded_next {src : Nat} {s t : State} {use : Word → Host.Outcome State Fault Refusal}
    (h : withRecorded src s use = .next t) : ∃ v, recorded src s.record = some v ∧ use v = .next t := by
  unfold withRecorded at h
  split at h
  · exact ⟨_, ‹_›, h⟩
  · cases h

/-- Where the host's turn answers a next state, that state differs from the present one, or from the effect of one host write on it,
in the model's own fields only; a write is made from a state that differs from the present one in the script only. -/
theorem hostTurn_cases {s t : State} (h : hostTurn s = .next t) :
    (∃ script record, t = { s with script := script, record := record }) ∨
    (∃ off v rest, WritesNext s off v rest ∧ off < 512 ∧ off % 4 = 0 ∧ memWrite off v { s with script := rest } = .next t) := by
  unfold hostTurn at h
  split at h
  · exact .inl ⟨_, _, (Host.Outcome.next.inj h).symm⟩
  · rename_i op rest hs
    cases op with
    | write off width v =>
      obtain ⟨h1, h2, h3, rfl⟩ := admitted_next h
      exact .inr ⟨off, v, rest, .inl hs, h2, h3, h1⟩
    | read off width =>
      obtain ⟨h1, -⟩ := admitted_next h
      exact .inl ⟨_, _, (Host.Outcome.next.inj h1).symm⟩
    | poll off mask value =>
      obtain ⟨h1, -⟩ := admitted_next h
      refine .inl ⟨if readWindow { s with script := rest } off &&& mask = value then rest else .poll off mask value :: rest,
        s.record, ?_⟩
      rw [← Host.Outcome.next.inj h1]
      split <;> rfl
    | copy off src =>
      obtain ⟨v, hv, h1⟩ := withRecorded_next h
      obtain ⟨h1, h2, h3, -⟩ := admitted_next h1
      exact .inr ⟨off, v, rest, .inr ⟨src, hs, hv⟩, h2, h3, h1⟩
    | readResults =>
      obtain ⟨n, -, h1⟩ := withRecorded_next h
      exact .inl ⟨_, _, (Host.Outcome.next.inj h1).symm⟩

/-- A step that answers a next state is one agent's turn, taken from a state that differs in the schedule and the count of draws
only (rules R14, R58). -/
theorem step_cases {s t : State} (h : step s = .next t) :
    s.cfg.wellFormed = true ∧ ∃ a schedule draws, agentTurn a { s with schedule := schedule, draws := draws } = .next t ∧
      ((s.schedule = a :: schedule ∧ draws = s.draws) ∨
       (s.schedule = [] ∧ schedule = [] ∧ a = Config.freeAgent s.draws ∧ draws = s.draws + 1)) := by
  unfold step at h
  split at h
  · rename_i hc
    refine ⟨hc, ?_⟩
    unfold takeTurn at h
    split at h
    · rename_i a rest hs
      exact ⟨a, rest, s.draws, h, .inl ⟨hs, rfl⟩⟩
    · rename_i hs
      refine ⟨_, [], s.draws + 1, ?_, .inr ⟨hs, rfl, rfl, rfl⟩⟩
      rw [← hs]; exact h
  · cases h

/-- The step where the schedule names the agent. -/
theorem step_of_schedule {s : State} {a : Agent} {rest : List Agent} (hc : s.cfg.wellFormed = true)
    (hs : s.schedule = a :: rest) : step s = agentTurn a { s with schedule := rest } := by
  simp [step, takeTurn, hc, hs]

/-- One step and then the rest of a run. -/
theorem run_succ_of_step {s t : State} (n : Nat) (h : step s = .next t) : core.run (n + 1) s = core.run n t := by
  have hs : core.step s = .next t := h
  simp only [Host.Core.run, hs]

/-- A host write keeps the invariant (rules R33 to R49, R141). -/
theorem Inv.memWrite {s t : State} (h : Inv s) {off : Nat} {v : Word} (hm : memWrite off v s = .next t) : Inv t := by
  obtain ⟨u, hu, hcase⟩ := memWrite_cases off v s
  obtain rfl := Host.Outcome.next.inj (hu.symm.trans hm)
  rcases hcase with rfl | ⟨c, rfl⟩ | rfl | rfl | ⟨r, rfl⟩
  · exact h
  · exact h.issueWork c
  · exact h.abortRequest
  · exact h.raiseCmdError (by decide)
  · exact h.writeReg r v

/-- The host's turn keeps the invariant. -/
theorem Inv.hostTurn {s t : State} (h : Inv s) (ht : hostTurn s = .next t) : Inv t := by
  rcases hostTurn_cases ht with ⟨script, record, rfl⟩ | ⟨off, v, rest, -, -, -, hm⟩
  · exact h.ownFields script record s.schedule s.draws
  · exact (h.ownFields rest s.record s.schedule s.draws).memWrite hm

end Sys2Proof.Machine
end

