-- ==== Sys2Proof/Laws/Frames.lean ====
section
/-!
SUPPORT. What the host's turn leaves as it is, and how the agent of a step is found.
-/

namespace Sys2Proof.Machine

/-- The agent of a step, as `step_cases` gives it, is the one `takeTurn` names. -/
theorem takeTurn_agent {s : State} {a : Agent} {schedule : List Agent} {draws : Nat}
    (h : (s.schedule = a :: schedule ∧ draws = s.draws) ∨
      (s.schedule = [] ∧ schedule = [] ∧ a = Config.freeAgent s.draws ∧ draws = s.draws + 1)) : (takeTurn s).1 = a := by
  rcases h with ⟨h, -⟩ | ⟨h, -, rfl, -⟩ <;> simp [takeTurn, h]

/-- The host left the results and the configuration of the block as they were, but for a SEARCH's start (rules R39, R40, R167, R276). -/
structure HostKeeps (s t : State) : Prop where
  cfg : t.cfg = s.cfg
  dout : t.dout = s.dout
  subK1 : t.subK1 = s.subK1
  subK2 : t.subK2 = s.subK2
  searchResults :
    (t.time = s.time ∧ t.sink = s.sink) ∨ (t.time = 0#32 ∧ t.sink = [] ∧ s.op = none ∧ t.op = some .search)
  busyKept : s.op ≠ none → t.op = s.op ∧ t.nextKey = s.nextKey ∧ t.lanes = s.lanes
  cancelKept : s.op ≠ none → s.cancel = true → t.cancel = true

theorem HostKeeps.of_writeReg (r : Reg) (v : Word) (s : State) : HostKeeps s (writeReg r v s) := by
  cases r
  case status =>
    simp only [writeReg, writeStatus]
    split <;> split <;> exact ⟨rfl, rfl, rfl, rfl, .inl ⟨rfl, rfl⟩, fun _ => ⟨rfl, rfl, rfl⟩, fun _ h => h⟩
  all_goals exact ⟨rfl, rfl, rfl, rfl, .inl ⟨rfl, rfl⟩, fun _ => ⟨rfl, rfl, rfl⟩, fun _ h => h⟩

theorem HostKeeps.of_issueWork (c : WorkCmd) (s : State) : HostKeeps s (issueWork c s) := by
  by_cases ho : s.op = none
  · cases hw : widthsOk c s
    · rw [issueWork_invalid ho hw]; exact ⟨rfl, rfl, rfl, rfl, .inl ⟨rfl, rfl⟩, fun h => absurd ho h, fun h => absurd ho h⟩
    · rw [issueWork_accept ho hw]
      cases c
      case search => exact ⟨rfl, rfl, rfl, rfl, .inr ⟨rfl, rfl, ho, rfl⟩, fun h => absurd ho h, fun h => absurd ho h⟩
      all_goals exact ⟨rfl, rfl, rfl, rfl, .inl ⟨rfl, rfl⟩, fun h => absurd ho h, fun h => absurd ho h⟩
  · rw [issueWork_busy ho]; exact ⟨rfl, rfl, rfl, rfl, .inl ⟨rfl, rfl⟩, fun _ => ⟨rfl, rfl, rfl⟩, fun _ h => h⟩

/-- Everything the host's turn can do to the fields a work command owns. -/
theorem hostTurn_keeps {s t : State} (h : hostTurn s = .next t) : HostKeeps s t := by
  rcases hostTurn_cases h with ⟨script, record, rfl⟩ | ⟨off, v, rest, -, -, -, hm⟩
  · exact ⟨rfl, rfl, rfl, rfl, .inl ⟨rfl, rfl⟩, fun _ => ⟨rfl, rfl, rfl⟩, fun _ h => h⟩
  · obtain ⟨u, hu, hc⟩ := memWrite_cases off v { s with script := rest }
    obtain rfl := Host.Outcome.next.inj (hu.symm.trans hm)
    rcases hc with rfl | ⟨c, rfl⟩ | rfl | rfl | ⟨r, rfl⟩
    · exact ⟨rfl, rfl, rfl, rfl, .inl ⟨rfl, rfl⟩, fun _ => ⟨rfl, rfl, rfl⟩, fun _ h => h⟩
    · obtain ⟨h1, h2, h3, h4, h5, h6, h7⟩ := HostKeeps.of_issueWork c { s with script := rest }
      exact ⟨h1, h2, h3, h4, h5, h6, h7⟩
    · unfold abortRequest
      split
      · exact ⟨rfl, rfl, rfl, rfl, .inl ⟨rfl, rfl⟩, fun _ => ⟨rfl, rfl, rfl⟩, fun _ _ => rfl⟩
      · exact ⟨rfl, rfl, rfl, rfl, .inl ⟨rfl, rfl⟩, fun _ => ⟨rfl, rfl, rfl⟩, fun _ h => h⟩
    · exact ⟨rfl, rfl, rfl, rfl, .inl ⟨rfl, rfl⟩, fun _ => ⟨rfl, rfl, rfl⟩, fun _ h => h⟩
    · obtain ⟨h1, h2, h3, h4, h5, h6, h7⟩ := HostKeeps.of_writeReg r v { s with script := rest }
      exact ⟨h1, h2, h3, h4, h5, h6, h7⟩

end Sys2Proof.Machine
end

