-- ==== Sys2Proof/Laws/HostScript.lean ====
section
/-!
SUPPORT. What a host script has read (rule R107), and the loop over the results (rules R110, R298).
-/

namespace Sys2Proof.Machine

@[simp] theorem readingsOf_nil (off : Nat) : readingsOf off [] = [] := rfl

@[simp] theorem readingsOf_append (off : Nat) (a b : List Reading) : readingsOf off (a ++ b) = readingsOf off a ++ readingsOf off b := by
  simp [readingsOf]

theorem readingsOf_cons_same (off : Nat) (v : Word) (l : List Reading) : readingsOf off (⟨off, v⟩ :: l) = v :: readingsOf off l := by
  simp [readingsOf]

theorem readingsOf_cons_other {off : Nat} {r : Reading} (h : r.off ≠ off) (l : List Reading) :
    readingsOf off (r :: l) = readingsOf off l := by
  simp [readingsOf, h]

theorem readingsOf_eq_nil {off : Nat} {l : List Reading} (h : ∀ r ∈ l, r.off ≠ off) : readingsOf off l = [] := by
  simp only [readingsOf, List.map_eq_nil_iff, List.filter_eq_nil_iff, beq_iff_eq]; exact h

/-- A register that no RD has read has no recorded value. -/
theorem recorded_eq_none {off : Nat} {l : List Reading} (h : ∀ r ∈ l, r.off ≠ off) : recorded off l = none := by
  simp [recorded, readingsOf_eq_nil h]

/-- The recorded value is that of the latest RD. -/
theorem recorded_latest {off : Nat} {v : Word} {before after : List Reading} (h : ∀ r ∈ after, r.off ≠ off) :
    recorded off (before ++ ⟨off, v⟩ :: after) = some v := by
  simp [recorded, readingsOf_cons_same, readingsOf_eq_nil h]

@[simp] theorem readOutOps_zero : readOutOps 0 = [] := rfl

theorem readOutOps_succ (n : Nat) : readOutOps (n + 1) = readOutOps n ++ readResultOps n := by
  simp [readOutOps, List.range_succ]

/-- The host's turn at the head of the loop over the results: as many rounds as the value recorded for RES_COUNT says. -/
theorem hostTurn_readResults {s : State} {rest : List HostOp} {n : Word} (hs : s.script = .readResults :: rest)
    (hn : recorded 0x02C s.record = some n) : hostTurn s = .next { s with script := readOutOps n.toNat ++ rest } := by
  simp only [hostTurn, hs]
  exact withRecorded_some hn _

/-- The host's turn at a write of a recorded value is the turn at the write of that value. -/
theorem hostTurn_copy {s : State} {off src : Nat} {rest : List HostOp} {v : Word} (hs : s.script = .copy off src :: rest)
    (hv : recorded src s.record = some v) : hostTurn s = hostTurn { s with script := .write off 4 v :: rest } := by
  simp only [hostTurn, hs]
  exact withRecorded_some hv _

theorem binaryVal_foldl (chars : List Char) (acc : Nat) :
    chars.foldl (fun acc c => 2 * acc + (if c = '1' then 1 else 0)) acc = acc * 2 ^ chars.length + binaryVal chars := by
  induction chars generalizing acc with
  | nil => simp [binaryVal]
  | cons c cs ih =>
    have h : binaryVal (c :: cs) = (2 * 0 + (if c = '1' then 1 else 0)) * 2 ^ cs.length + binaryVal cs := ih _
    rw [List.foldl_cons, ih, h, List.length_cons, Nat.pow_succ]
    ring

/-- The leftmost character is the most significant bit (rule R12). -/
theorem binaryVal_cons (c : Char) (cs : List Char) :
    binaryVal (c :: cs) = (if c = '1' then 1 else 0) * 2 ^ cs.length + binaryVal cs := by
  simpa [binaryVal] using binaryVal_foldl cs (if c = '1' then 1 else 0)

theorem binaryVal_lt (chars : List Char) : binaryVal chars < 2 ^ chars.length := by
  induction chars with
  | nil => simp [binaryVal]
  | cons c cs ih => rw [binaryVal_cons, List.length_cons, Nat.pow_succ]; split <;> omega

end Sys2Proof.Machine
end

