-- ==== Sys2Proof/Laws/PerInstr.lean ====
section
/-!
SUPPORT. Statements about every command, one lemma per constructor.
-/

/-- A command is well-formed, its word has RSVZ zero and its opcode in OP, and the word decodes to it (rules R100, R102, R104). -/
def Sys2Proof.Laws.Encoded.Statement (i : Sys2Proof.Instr) : Prop :=
  i.wellFormed = true ∧ Sys2Proof.rsvzField (Sys2Proof.encode i) = 0#28 ∧
    Sys2Proof.opField (Sys2Proof.encode i) = i.opcode ∧ Sys2Proof.decode (Sys2Proof.encode i) = .ok i

theorem Sys2Proof.Laws.Encoded.nop : Sys2Proof.Laws.Encoded.Statement .nop := ⟨rfl, by decide, by decide, rfl⟩
theorem Sys2Proof.Laws.Encoded.keysched : Sys2Proof.Laws.Encoded.Statement .keysched := ⟨rfl, by decide, by decide, rfl⟩
theorem Sys2Proof.Laws.Encoded.encrypt : Sys2Proof.Laws.Encoded.Statement .encrypt := ⟨rfl, by decide, by decide, rfl⟩
theorem Sys2Proof.Laws.Encoded.decrypt : Sys2Proof.Laws.Encoded.Statement .decrypt := ⟨rfl, by decide, by decide, rfl⟩
theorem Sys2Proof.Laws.Encoded.search : Sys2Proof.Laws.Encoded.Statement .search := ⟨rfl, by decide, by decide, rfl⟩
theorem Sys2Proof.Laws.Encoded.abort : Sys2Proof.Laws.Encoded.Statement .abort := ⟨rfl, by decide, by decide, rfl⟩
end

