-- ==== Sys2Proof/Laws/Progress.lean ====
section
/-!
SUPPORT. What a worker's step does to the steps a command has left (rules R148, R278, R280, R286), and the turns of an unending run.
-/

namespace Sys2Proof.Machine

@[simp] theorem workerOf_commandUnit : workerOf .commandUnit = some .commandUnit := rfl
@[simp] theorem workerOf_dispatcher (j : Nat) : workerOf (.dispatcher j) = some .dispatcher := rfl
@[simp] theorem workerOf_lane (j : Nat) : workerOf (.lane j) = some (.lane j) := rfl
@[simp] theorem workerOf_host : workerOf .host = none := rfl
@[simp] theorem workerOf_clock : workerOf .clock = none := rfl
@[simp] theorem workerOf_platform : workerOf .platform = none := rfl

theorem isWorker_iff (a : Agent) : isWorker a = true ↔ workerOf a ≠ none := by
  simp [isWorker, Option.isSome_iff_ne_none]

/-- No enabling condition reads the schedule. -/
@[simp] theorem agentEnabled_schedule (a : Agent) (s : State) (schedule : List Agent) :
    agentEnabled a { s with schedule := schedule } = agentEnabled a s := by cases a <;> rfl

theorem remainingSteps_congr {s t : State} (h1 : t.op = s.op) (h2 : t.nextKey = s.nextKey) (h3 : t.lanes = s.lanes) :
    remainingSteps t = remainingSteps s := by
  simp only [remainingSteps, busyLanes, h1, h2, h3]

theorem remainingSteps_idle {s : State} (h : s.op = none) : remainingSteps s = 0 := by simp only [remainingSteps, h]

theorem remainingSteps_busy {s : State} (h : s.op ≠ none) : 0 < remainingSteps s := by
  unfold remainingSteps
  split
  · exact absurd ‹_› h
  · omega
  · omega

/-- A dispatch step uses up one of the steps left: two for the key handed out become one for the lane that holds it. -/
theorem remainingSteps_dispatch {s : State} {j : Nat} (he : dispatchEnabled j s = true) :
    remainingSteps (dispatch j s) < remainingSteps s := by
  simp only [dispatchEnabled, Bool.and_eq_true, beq_iff_eq, Bool.not_eq_true', decide_eq_true_eq] at he
  obtain ⟨⟨⟨ho, -⟩, hlt⟩, hj⟩ := he
  have hp : (laneKeys (dispatch j s)).Perm (seqOf 10 s.nextKey :: laneKeys s) := laneKeys_set_eval s.lanes j _ hj
  have hb : busyLanes (dispatch j s) = busyLanes s + 1 := by rw [busyLanes_eq, busyLanes_eq, hp.length_eq]; rfl
  have ho' : (dispatch j s).op = some .search := ho
  simp only [remainingSteps, ho, ho', hb, dispatch_nextKey]
  omega

/-- The command unit's enabled step ends the command in flight with DONE. -/
theorem commandUnitTurn_ends {s : State} (he : agentEnabled .commandUnit s = true) :
    s.op ≠ none ∧ (commandUnitTurn s).op = none ∧ (commandUnitTurn s).done = true := by
  unfold agentEnabled at he
  cases ho : s.op with
  | none => simp [ho] at he
  | some c =>
    cases c <;> simp only [commandUnitTurn, ho]
    case search => simp only [ho] at he; rw [if_pos he]; exact ⟨by simp, rfl, rfl⟩
    all_goals exact ⟨by simp, rfl, rfl⟩

/-- The turn of an unending run, as its agent's turn. -/
theorem IsRun.turn {turns : Nat → Agent} {states : Nat → State} (h : IsRun turns states) (n : Nat) :
    (states n).cfg.wellFormed = true ∧ agentTurn (turns n) { states n with schedule := [] } = .next (states (n + 1)) := by
  have hc : (states n).cfg.wellFormed = true := (step_cases (h n)).1
  exact ⟨hc, (step_of_schedule (s := { states n with schedule := [turns n] }) hc rfl).symm.trans (h n)⟩

end Sys2Proof.Machine
end

