-- ==== Sys2Proof/Tests/Slice0.lean ====
section
/-!
SUPPORT. The model's own tests. Expected values come from the spec: the rule examples and the vectors of 95_test_vectors.md, named at
each test. Then one witness per statement of `Obligations.lean` that has hypotheses.
-/

open Sys2Proof Sys2Proof.Machine

namespace Sys2Proof.Tests

/-- The next state of an outcome. -/
def nextState (o : Host.Outcome State Fault Refusal) : Option State :=
  match o with
  | .next s => some s
  | .fault _ => none
  | .refused _ => none

/-- The fault of an outcome. -/
def faultOf (o : Host.Outcome State Fault Refusal) : Option Fault :=
  match o with
  | .next _ => none
  | .fault f => some f
  | .refused _ => none

/-- The refusal of an outcome. -/
def refusalOf (o : Host.Outcome State Fault Refusal) : Option Refusal :=
  match o with
  | .next _ => none
  | .fault _ => none
  | .refused r => some r

/-- A word read from the next state of an outcome. -/
def readAfter (off : Nat) (o : Host.Outcome State Fault Refusal) : Option Word :=
  (nextState o).map (fun s => readWindow s off)

/-- The host makes the one transaction `t` in its next turn. -/
def hostOp (s : State) (t : HostOp) : Host.Outcome State Fault Refusal :=
  step { s with script := [t], schedule := [.host] }

/-- A table set under which F is constant, so that every key acts alike: well-formed, and easy to reason about. -/
def flatTables : Tables :=
  { textbook with sbox1 := List.replicate 4 [0, 0, 0, 0], sbox2 := List.replicate 4 [0, 0, 0, 0] }

/-- One lane, the tables above. -/
def small : State := State.resetWith { Config.default with tables := flatTables, nLanes := 1 }

/-! ## Well-formedness: an ill-formed term for each check, refused -/

theorem test_offset_unaligned_refused : HostOp.wellFormed (.read 0x002 4) = false := by decide
theorem test_offset_outside_refused : HostOp.wellFormed (.write 0x200 4 0#32) = false := by decide
theorem test_width_refused : HostOp.wellFormed (.read 0x000 1) = false := by decide
theorem test_poll_unaligned_refused : HostOp.wellFormed (.poll 0x011 1#32 0#32) = false := by decide
theorem test_copy_unaligned_refused : HostOp.wellFormed (.copy 0x018 0x021) = false ∧ HostOp.wellFormed (.copy 0x019 0x020) = false := by decide
theorem test_presets_accepted : textbook.wellFormed = true ∧ variant.wellFormed = true := by decide
theorem test_p10_repeated_refused : ({ textbook with p10 := [3, 3, 2, 7, 4, 10, 1, 9, 8, 6] } : Tables).wellFormed = false := by decide
theorem test_p10_short_refused : ({ textbook with p10 := [3, 5, 2, 7, 4, 10, 1, 9, 8] } : Tables).wellFormed = false := by decide
theorem test_p8_range_refused : ({ textbook with p8 := [6, 3, 7, 4, 8, 5, 10, 11] } : Tables).wellFormed = false := by decide
theorem test_ip_repeated_refused : ({ textbook with ip := [2, 6, 3, 1, 4, 8, 5, 5] } : Tables).wellFormed = false := by decide
theorem test_ipinv_not_inverse_refused : ({ textbook with ipinv := [4, 1, 3, 5, 7, 2, 6, 8] } : Tables).wellFormed = false := by decide
theorem test_ep_range_refused : ({ textbook with ep := [4, 1, 2, 3, 2, 3, 4, 0] } : Tables).wellFormed = false := by decide
theorem test_p4_repeated_refused : ({ textbook with p4 := [2, 4, 3, 3] } : Tables).wellFormed = false := by decide
theorem test_sbox1_entry_refused :
    ({ textbook with sbox1 := [[1, 0, 3, 4], [3, 2, 1, 0], [0, 2, 1, 3], [3, 1, 3, 2]] } : Tables).wellFormed = false := by decide
theorem test_sbox2_row_refused : ({ textbook with sbox2 := [[0, 1, 2, 3], [2, 0, 1, 3], [3, 0, 1]] } : Tables).wellFormed = false := by decide
theorem test_lanes_refused :
    ({ Config.default with nLanes := 0 } : Config).wellFormed = false ∧
    ({ Config.default with nLanes := 1025 } : Config).wellFormed = false := by decide
theorem test_base_refused : ({ Config.default with base := 256 } : Config).wellFormed = false := by decide
/-- An ill-formed configuration is refused by every step (rule R149). -/
theorem test_step_refuses_ill_formed :
    refusalOf (step { small with cfg := { small.cfg with nLanes := 0 } }) = some .illFormedConfiguration := by decide

/-! ## Decoding (rules R104, R105) -/

theorem test_decode_words :
    decode 0x00000000#32 = .ok .nop ∧ decode 0x00000001#32 = .ok .keysched ∧ decode 0x00000002#32 = .ok .encrypt ∧
    decode 0x00000003#32 = .ok .decrypt ∧ decode 0x00000004#32 = .ok .search ∧ decode 0x00000005#32 = .ok .abort := ⟨rfl, rfl, rfl, rfl, rfl, rfl⟩
theorem test_decode_reserved_opcodes : decode 0x00000006#32 = .error .reservedOpcode ∧ decode 0x0000000F#32 = .error .reservedOpcode := ⟨rfl, rfl⟩
theorem test_decode_reserved_bits : decode 0x00000010#32 = .error .reservedBits ∧ decode 0x80000002#32 = .error .reservedBits := ⟨rfl, rfl⟩
theorem test_table_word : decodeTableWord 32 3 = some .decrypt ∧ decodeTableWord 4 0x12 = some .encrypt ∧ decodeTableWord 32 6 = none := by decide

/-! ## The datapath and the cipher (95_test_vectors.md, L2) -/

/-- V-B1, V-B3, V-B4. -/
theorem test_permute : permute 8 0b1010#4 textbook.ep = 0b01010101#8 ∧ permute 10 0b1010000010#10 textbook.p10 = 0b1000001100#10 ∧
    permute 8 0b0000111000#10 textbook.p8 = 0b10100100#8 := by decide
/-- V-B5, V-B6, V-B8. -/
theorem test_rotl : rotl 0b10000#5 1 = 0b00001#5 ∧ rotl 0b00001#5 2 = 0b00100#5 ∧ rotl (rotl 0b01100#5 1) 2 = 0b00011#5 := by decide
/-- V-B11. -/
theorem test_ip : permute 8 0b10111101#8 textbook.ip = 0b01111110#8 ∧ permute 8 0b01111110#8 textbook.ipinv = 0b10111101#8 := by decide
/-- V-K3, V-K4, V-K7. -/
theorem test_keySchedule : keySchedule textbook 0x282#10 = (0xA4#8, 0x43#8) ∧ keySchedule textbook 0x1FD#10 = (0x5F#8, 0xFC#8) ∧
    keySchedule textbook 0x31E#10 = (0xE9#8, 0xA7#8) := by decide
/-- V-K5, V-K6: the two ends of the key. -/
theorem test_keySchedule_ends : keySchedule textbook 0x200#10 = (0x80#8, 0x01#8) ∧ keySchedule textbook 0x001#10 = (0x02#8, 0x08#8) := by decide
/-- V-F1, V-F3, V-F5 under both presets. -/
theorem test_roundF : roundF textbook 0b0000#4 0x00#8 = 0b1000#4 ∧ roundF textbook 0b1110#4 0xA4#8 = 0b1011#4 ∧
    roundF variant 0b1110#4 0xA4#8 = 0b0010#4 ∧ roundF variant 0b1010#4 0xFF#8 = 0b0001#4 := by decide
/-- R202, two entries of each table where the presets differ. -/
theorem test_sbox : sbox textbook.sbox1 0b1101#4 = 0b11#2 ∧ sbox variant.sbox1 0b1101#4 = 0b00#2 ∧
    sbox textbook.sbox2 0b0111#4 = 0b11#2 ∧ sbox variant.sbox2 0b0111#4 = 0b00#2 := by decide
/-- V-E1, V-E6 under both presets. -/
theorem test_encryptBlock : encryptBlock textbook 0xBD#8 0x282#10 = 0x75#8 ∧ encryptBlock variant 0xBD#8 0x282#10 = 0x87#8 ∧
    encryptBlock textbook 0xA5#8 0x1FD#10 = 0x06#8 ∧ encryptBlock variant 0xA5#8 0x1FD#10 = 0xCB#8 := by decide +kernel
/-- V-E1, V-E6, column D. -/
theorem test_decryptBlock : decryptBlock textbook 0xBD#8 0x282#10 = 0x89#8 ∧ decryptBlock variant 0xBD#8 0x282#10 = 0x61#8 ∧
    decryptBlock textbook 0x75#8 0x282#10 = 0xBD#8 ∧ decryptBlock textbook 0xA5#8 0x1FD#10 = 0xB1#8 := by decide +kernel
/-- V-S1: the four keys, and the VARIANT key that is absent. -/
theorem test_keyMatches : keyMatches textbook 0xBD#8 0x75#8 0x282#10 = true ∧ keyMatches textbook 0xBD#8 0x75#8 0x28A#10 = true ∧
    keyMatches textbook 0xBD#8 0x75#8 0x382#10 = true ∧ keyMatches textbook 0xBD#8 0x75#8 0x38A#10 = true ∧
    keyMatches textbook 0xBD#8 0x75#8 0x23E#10 = false := by decide +kernel
/-- V-T1, V-T3. -/
theorem test_encryptText : encryptText textbook ['H', 'i', '!'] 0x282#10 = [Char.ofNat 0xE0, Char.ofNat 0xC7, Char.ofNat 0x29] ∧
    encryptText textbook [Char.ofNat 0x141] 0x282#10 = [Char.ofNat 0x15] := by decide +kernel
theorem test_decryptText : decryptText textbook [Char.ofNat 0x15] 0x282#10 = ['A'] := by decide +kernel
/-- 95, Reset: PARAM for N_LANES = 4 and TEXTBOOK. -/
theorem test_param : readWindow State.reset 0x004 = 0x00200004#32 := by decide

/-! ## One step each: the command unit (95_test_vectors.md, V-C) and the commands -/

/-- V-C1. -/
theorem test_nop : readAfter 0x010 (hostOp State.reset (.write 0x00C 4 0x0#32)) = some 0x00000000#32 := by decide
/-- R150, the example. -/
theorem test_nop_keeps_status :
    readAfter 0x010 (hostOp { State.reset with done := true, lastop := 1#4 } (.write 0x00C 4 0x0#32)) = some 0x00000102#32 := by decide
/-- V-C2, V-C4. -/
theorem test_illegal : readAfter 0x010 (hostOp State.reset (.write 0x00C 4 0x6#32)) = some 0x00000034#32 ∧
    readAfter 0x010 (hostOp State.reset (.write 0x00C 4 0x10#32)) = some 0x00000034#32 := by decide
/-- V-C6, V-K8. -/
theorem test_encrypt_overwide :
    readAfter 0x010 (hostOp { State.reset with key := 0x400#32 } (.write 0x00C 4 0x2#32)) = some 0x00000014#32 := by decide
theorem test_keysched_overwide :
    readAfter 0x010 (hostOp { State.reset with key := 0x400#32 } (.write 0x00C 4 0x1#32)) = some 0x00000014#32 := by decide
/-- 95, SEARCH corner cases: TARGET = 0x100 is rejected; KEY is not read. -/
theorem test_search_operands :
    readAfter 0x010 (hostOp { State.reset with target := 0x100#32 } (.write 0x00C 4 0x4#32)) = some 0x00000014#32 ∧
    readAfter 0x010 (hostOp { State.reset with key := 0xFFFFFFFF#32 } (.write 0x00C 4 0x4#32)) = some 0x00000401#32 := by decide
/-- V-C8. -/
theorem test_abort_idle : (nextState (hostOp State.reset (.write 0x00C 4 0x5#32))).map State.cancel = some false := by decide
/-- V-C9, V-C10: while a SEARCH is BUSY. -/
theorem test_busy :
    readAfter 0x010 (hostOp (accept .search State.reset) (.write 0x00C 4 0x12#32)) = some 0x00000435#32 ∧
    readAfter 0x010 (hostOp (accept .search State.reset) (.write 0x00C 4 0x2#32)) = some 0x00000445#32 := by decide
/-- V-C11, V-C12. -/
theorem test_irq :
    readAfter 0x010 (hostOp { State.reset with doneIe := true, errIe := true } (.write 0x00C 4 0x6#32)) = some 0x00001034#32 ∧
    readAfter 0x010 (hostOp { State.reset with errIe := true, err := true, errcode := 3#4 } (.write 0x010 4 0x4#32)) =
      some 0x00000000#32 := by decide
/-- V-C13. -/
theorem test_status_write : readAfter 0x010 (hostOp State.reset (.write 0x010 4 0xFFFFFFFF#32)) = some 0x00000000#32 := by decide
/-- V-C14. -/
theorem test_bus_error :
    faultOf (hostOp State.reset (.read 0x002 4)) = some (.busError 0x002 4) ∧
    faultOf (hostOp State.reset (.read 0x000 1)) = some (.busError 0x000 1) := by decide
/-- V-C15. -/
theorem test_reads : readWindow State.reset 0x000 = 0x53444553#32 ∧ readWindow State.reset 0x00C = 0#32 ∧
    readWindow State.reset 0x040 = 0#32 := by decide
/-- V-K3 by the command unit's step. -/
theorem test_keysched_completes :
    readAfter 0x024 (step { State.reset with op := some .keysched, opKey := 0x282#10, schedule := [.commandUnit] }) =
      some 0x000043A4#32 := by decide
/-- V-E1 by the command unit's step. -/
theorem test_encrypt_completes :
    readAfter 0x020 (step { State.reset with op := some .encrypt, opKey := 0x282#10, opIn := 0xBD#8, schedule := [.commandUnit] }) =
      some 0x00000075#32 := by decide +kernel
/-- V-E1, the way back. -/
theorem test_decrypt_completes :
    readAfter 0x020 (step { State.reset with op := some .decrypt, opKey := 0x282#10, opIn := 0x75#8, schedule := [.commandUnit] }) =
      some 0x000000BD#32 := by decide +kernel
/-- V-S1, one lane step: key 0x282 is bit 2 of MATCH_MAP20. -/
theorem test_lane_step :
    (nextState (step { State.reset with
        op := some .search, opIn := 0x75#8, opPt := 0xBD#8, nextKey := 0x283, evaluated := 0x282
        lanes := [.eval 0x282#10, .idle, .idle, .idle], schedule := [.lane 0] })).map
      (fun s => (s.map.extractLsb' 640 32, s.evaluated, s.count)) = some (0x00000004#32, 0x283, 1) := by decide +kernel
/-- 95, SEARCH corner cases: SEARCH, ABORT with no dispatch between them, then the join. -/
theorem test_abort_join :
    readAfter 0x010 (step { abortRequest (accept .search State.reset) with schedule := [.commandUnit] }) = some 0x0000040A#32 := by decide
/-- A command word placed for the next step runs as the first command after reset. -/
theorem test_withFetchWord : readAfter 0x010 (step (State.reset.withFetchWord 32 1)) = some 0x00000101#32 ∧
    readAfter 0x010 (step (State.reset.withFetchWord 32 4)) = some 0x00000401#32 := by decide

/-! ## Host scripts (rules R107 to R109) -/

/-- P3, its first lines, and P1's poll. -/
theorem test_parseLine :
    parseLine "        WR   CMD, 0x7       ; reserved opcode".toList = some (.plain (.wr .cmd 0x7#32)) ∧
    parseLine "loop:   RD MATCH_MAP20".toList = some (.plain (.rd (.matchMap 20))) ∧
    parseLine "POLL STATUS, 0b1, 0".toList = some (.plain (.poll .status 1#32 0#32)) := by decide
theorem test_parsePseudo :
    parseLine "SETKEY \"1010000010\"".toList = some (.pseudo (.setKey "1010000010".toList)) ∧
    parseLine "WAIT ; until BUSY = 0".toList = some (.pseudo .wait) ∧ parseLine "WR ID".toList = none := by decide
/-- P1's encoding, its first five transactions (rule R108). -/
theorem test_scriptTransactions :
    scriptTransactions [.pseudo .ack, .plain (.wr .key 0x282#32), .plain (.wr .din 0xBD#32), .pseudo (.command .encrypt), .pseudo .wait] =
      ([.write 0x010 4 6#32, .write 0x014 4 0x282#32, .write 0x018 4 0xBD#32, .write 0x00C 4 2#32, .poll 0x010 1#32 0#32], none) := by
  decide
/-- Rule R12: the string 1010000010 is key number 0x282. -/
theorem test_setKey : scriptTransactions [.pseudo (.setKey "1010000010".toList)] = ([.write 0x014 4 0x282#32], none) := by decide

/-- P1: the host copies the DOUT it has read, the latest one, to DIN. -/
theorem test_copy :
    parseLine "        WR   DIN, <DOUT>    ; (W, 018, 00000075) host copies the value read".toList = some (.plain (.wrRead .din .dout)) ∧
    readAfter 0x018 (hostOp { State.reset with record := [⟨0x020, 0x11#32⟩, ⟨0x020, 0x75#32⟩, ⟨0x010, 0x202#32⟩] } (.copy 0x018 0x020)) =
      some 0x00000075#32 := by decide +kernel
/-- A script that has not read DOUT has no value to copy. -/
theorem test_copy_unread : refusalOf (hostOp State.reset (.copy 0x018 0x020)) = some (.unreadValue 0x020) := by decide
/-- P2: its read of RES_COUNT and its loop, as they stand there. -/
theorem test_parse_loop :
    parseScript ["        RD   RES_COUNT      ; (R, 02C)  -> n".toList,
      "loop:   WR   RES_INDEX, i   ; (W, 030, i)  for i = 0 .. n-1 (host loop)".toList,
      "        RD   RES_KEY        ; (R, 034)  -> 0x80000000 | key_i".toList,
      "        RD   RES_TIME       ; (R, 038)  -> t_i".toList] = some [.plain (.rd .resCount), .readResults] := by decide +kernel
/-- R110: with n = 2 read, the loop makes the accesses for i = 0 and i = 1. -/
theorem test_loop : (nextState (hostOp { State.reset with record := [⟨0x02C, 2#32⟩] } .readResults)).map State.script =
    some [.write 0x030 4 0#32, .read 0x034 4, .read 0x038 4, .write 0x030 4 1#32, .read 0x034 4, .read 0x038 4] := by decide
/-- P2: one of the readings it gives, as the pair rule R298 makes of it. -/
theorem test_searchResults : searchResults [⟨0x02C, 1#32⟩, ⟨0x034, 0x80000282#32⟩, ⟨0x038, 7#32⟩] = [⟨0x282#10, 7#32⟩] := by decide
/-- P5: the DOUT words it reads and the string the host has. -/
theorem test_textResult : textResult [⟨0x020, 0xE0#32⟩, ⟨0x020, 0xC7#32⟩, ⟨0x020, 0x29#32⟩] =
    [Char.ofNat 0xE0, Char.ofNat 0xC7, Char.ofNat 0x29] := by decide +kernel

/-! ## Witnesses: for each statement with hypotheses, a state and operands that meet them -/

theorem small_inv : Inv small :=
  AtRest.inv (by constructor <;> first | rfl | decide) (by decide) rfl

/-- A SEARCH in flight for a pair that every key matches. -/
def searching : State := accept .search { small with din := 0x00#32, target := 0x00#32 }

theorem searching_inv : Inv searching :=
  Inv.acceptSearch (s := { small with din := 0x00#32, target := 0x00#32 })
    (AtRest.inv (by constructor <;> first | rfl | decide) (by decide) rfl) rfl

/-- Key 0 dispatched, and evaluated. -/
def dispatched : State := dispatch 0 searching
theorem dispatched_inv : Inv dispatched := searching_inv.dispatch (by decide)
def evaluated1 : State := evaluateKey 0 0#10 dispatched
theorem evaluated1_inv : Inv evaluated1 := dispatched_inv.evaluateKey (by decide)
/-- Cancelled and joined: one match, ABORTED. -/
def abortedSearch : State := join (abortRequest evaluated1)
theorem abortedSearch_inv : Inv abortedSearch := evaluated1_inv.abortRequest.join (by decide +kernel)

/-- Under `flatTables` F is 0 whatever its input, so decryption does not depend on the key. -/
theorem flat_roundF (r : Half) (k : Block) : roundF flatTables r k = 0#4 := by
  have h : ∀ x : Half, sbox flatTables.sbox1 x = 0#2 := by decide
  have h2 : flatTables.sbox2 = flatTables.sbox1 := rfl
  simp only [roundF, h2, h]
  decide

theorem flat_keyMatches (k : Key) : keyMatches flatTables 0x01#8 0x00#8 k = false := by
  simp only [keyMatches, decryptBlock, rounds, flat_roundF]
  decide

/-- A SEARCH that has run to its end over a pair that no key matches. -/
def finishedSearch : State :=
  { small with done := true, lastop := 4#4, opPt := 0x01#8, opIn := 0x00#8, nextKey := 1024, evaluated := 1024 }

theorem finishedSearch_inv : Inv finishedSearch where
  config := by decide
  laneCount := rfl
  spec :=
    { lanesIdle := .inr (by decide), dispatchedSplit := fun h => absurd h (by decide)
      countIsOnes := (mapOnes_eq (ks := []) (fun k => by simp [finishedSearch, small, State.resetWith]) List.nodup_nil).symm
      sinkDistinct := List.nodup_nil
      sinkBelow := fun _ hk => nomatch hk
      noStaleCancel := fun _ => rfl }
  allSplit := rfl
  nextKeyBound := Nat.le_refl _
  lanesDistinct := List.nodup_nil
  lanesBelow := by intro k hk; cases hk
  lanesNotInSink := by intro k hk; cases hk
  mapIsSink := by intro k; simp [finishedSearch, small, State.resetWith, sinkKeys]
  countIsLength := rfl
  cancelOnlySearch := fun h => absurd h (by decide)
  lastopInFlight := by intro c hc; cases hc
  notDoneWhileBusy := fun h => absurd rfl h
  errHasCode := by decide
  errcodeLegal := .inl rfl
  lastopLegal := by decide
  endedSearch := by intro _ _; decide
  searchMap := by
    intro _ k
    have h : keyMatches finishedSearch.cfg.tables finishedSearch.opPt finishedSearch.opIn k = false := flat_keyMatches k
    rw [h]; simp [finishedSearch, small, State.resetWith]
  singleLaneAscending := fun _ => List.Pairwise.nil

theorem witness_ResetWindowReads : ∃ (c : Config) (off : Nat), 1 ≤ c.nLanes ∧ c.nLanes ≤ 1024 ∧ off < 512 ∧ off % 4 = 0 ∧ off ≠ 0 ∧ off ≠ 4 :=
  ⟨{ Config.default with nLanes := 1024 }, 0x1FC, by decide⟩
theorem witness_ResetStep : ∃ s : State, s.cfg.wellFormed = true ∧ s.schedule = .platform :: [] ∧ s.op ≠ none :=
  ⟨{ searching with schedule := [.platform] }, by decide⟩
theorem witness_InvariantHoldsAfterReset : ∃ c : Config, c.wellFormed = true ∧ c.nLanes = 1024 :=
  ⟨{ Config.default with nLanes := 1024 }, by decide⟩
theorem witness_Decoder : rsvzField 0x00000010#32 ≠ 0#28 ∧ rsvzField 0x80000000#32 ≠ 0#28 ∧
    (rsvzField 0x00000006#32 = 0#28 ∧ 6 ≤ (opField 0x00000006#32).toNat) ∧
    (rsvzField 0x0000000F#32 = 0#28 ∧ 6 ≤ (opField 0x0000000F#32).toNat) := by decide
theorem witness_StepIssues_command : ∃ s : State, s.cfg.wellFormed = true ∧ s.schedule = [.host] ∧
    s.script = [.write 0x00C 4 5#32] ∧ decode 5#32 = .ok .abort :=
  ⟨{ small with script := [.write 0x00C 4 5#32], schedule := [.host] }, by decide, rfl, rfl, rfl⟩
theorem witness_StepIssues_illegal : ∃ s : State, s.cfg.wellFormed = true ∧ s.schedule = [.host] ∧
    s.script = [.write 0x00C 4 6#32] ∧ decode 6#32 = .error .reservedOpcode :=
  ⟨{ small with script := [.write 0x00C 4 6#32], schedule := [.host] }, by decide, rfl, rfl, rfl⟩
theorem witness_FetchedWord : small.cfg.wellFormed = true ∧ 0xFFFFFFFF % 2 ^ 32 < 2 ^ 32 := by decide
theorem witness_FirstFailingCheck :
    (decode 0x12#32 = .error .reservedBits ∧ searching.op ≠ none) ∧
    (decode 2#32 = .ok (WorkCmd.instr .encrypt) ∧ searching.op ≠ none ∧ widthsOk .encrypt { searching with key := 0x400#32 } = false) ∧
    (small.op = none ∧ widthsOk .search { small with din := 0x100#32 } = false) ∧
    (small.op = none ∧ widthsOk .encrypt { small with key := 0x3FF#32, din := 0xFF#32 } = true) ∧
    decode 0#32 = .ok .nop ∧ decode 5#32 = .ok .abort := by
  refine ⟨⟨rfl, by decide⟩, ⟨rfl, by decide, by decide⟩, by decide, by decide, rfl, rfl⟩
theorem witness_BusyRejects : searching.op ≠ none := by decide
theorem witness_Overwide : small.op = none ∧ (0x400#32).extractLsb' 10 22 ≠ 0#22 ∧ (0x80000000#32).extractLsb' 10 22 ≠ 0#22 ∧
    (0x100#32).extractLsb' 8 24 ≠ 0#24 ∧ (0x80000000#32).extractLsb' 8 24 ≠ 0#24 := by decide
theorem witness_RejectionFrame : (0x00C < 512 ∧ 0x00C % 4 = 0 ∧ 0x00C ≠ 0x010) ∧ (0x014 < 512 ∧ 0x014 % 4 = 0 ∧ 0x014 ≠ 0x010) := by decide
theorem witness_Nop : opField 0x10#32 = 0#4 ∧ rsvzField 0x10#32 ≠ 0#28 := by decide
theorem witness_Abort : searching.op = some .search ∧ small.op ≠ some .search := by decide
theorem witness_Keysched : ∃ s : State, s.op = none ∧ s.key = 0x3FF#32 ∧ s.key.extractLsb' 10 22 = 0#22 :=
  ⟨{ small with key := 0x3FF#32 }, by decide⟩
theorem witness_EncryptDecrypt : ∃ s : State, s.op = none ∧ s.key.extractLsb' 10 22 = 0#22 ∧ s.din = 0xFF#32 ∧ s.din.extractLsb' 8 24 = 0#24 :=
  ⟨{ small with key := 0x3FF#32, din := 0xFF#32 }, by decide⟩
theorem witness_SearchStarts : ∃ s : State, s.op = none ∧ s.key = 0xFFFFFFFF#32 ∧ s.din.extractLsb' 8 24 = 0#24 ∧ s.target.extractLsb' 8 24 = 0#24 :=
  ⟨{ small with key := 0xFFFFFFFF#32, din := 0xFF#32, target := 0xFF#32 }, by decide⟩
theorem witness_Completion : ∀ c : WorkCmd, ∃ s : State, s.cfg.wellFormed = true ∧ s.schedule = [.commandUnit] ∧ s.op = some c :=
  fun c => ⟨{ small with op := some c, schedule := [.commandUnit] }, by show small.cfg.wellFormed = true; decide, rfl, rfl⟩
theorem witness_LatchedOperands : Agent.commandUnit ≠ .host ∧ Agent.commandUnit ≠ .platform := by decide
theorem witness_Permute : textbook.p8.length = 8 ∧ (∀ e ∈ textbook.p8, 1 ≤ e ∧ e ≤ 10) ∧ 7 < 8 := by decide
theorem witness_Rotation : 4 < 5 ∧ ((1 : Nat) = 1 ∨ (1 : Nat) = 2) ∧ ((2 : Nat) = 1 ∨ (2 : Nat) = 2) := by decide
/-- BoundaryKeys, Rounds, DecryptInverts, SearchSet, TextRoundTrip. -/
theorem witness_Tables : textbook.wellFormed = true ∧ variant.wellFormed = true ∧ flatTables.wellFormed = true := by decide
theorem witness_TextBelow256 : (Char.ofNat 0).toNat < 256 ∧ (Char.ofNat 255).toNat < 256 := ⟨by decide, by decide⟩
theorem witness_Dispatch : ∀ n ∈ [0, 1023], ∃ s : State, s.cfg.wellFormed = true ∧ s.schedule = [.dispatcher 0] ∧ s.op = some .search ∧
    s.cancel = false ∧ s.nextKey = n ∧ s.nextKey < 1024 ∧ s.lanes[0]? = some .idle := by
  intro n hn
  refine ⟨{ searching with schedule := [.dispatcher 0], nextKey := n }, by show small.cfg.wellFormed = true; decide, rfl, rfl, rfl, rfl, ?_, rfl⟩
  simp at hn; show n < 1024; omega
/-- The four ways in which a dispatch is not enabled, each alone, and the two in which a join is not. -/
theorem witness_Dispatch_disabled : small.op ≠ some .search ∧ (abortRequest searching).cancel = true ∧
    1024 ≤ ({ searching with nextKey := 1024 } : State).nextKey ∧ dispatched.lanes[0]? ≠ some .idle ∧ searching.lanes[1]? ≠ some .idle := by decide
theorem witness_Join_disabled : dispatched.op = some .search ∧ (∃ l ∈ dispatched.lanes, l ≠ .idle) ∧
    (searching.op = some .search ∧ searching.nextKey ≠ 1024 ∧ searching.cancel = false) := by decide
theorem witness_LaneStep : ∃ s : State, s.cfg.wellFormed = true ∧ s.schedule = [.lane 0] ∧ s.lanes[0]? = some (.eval 0#10) ∧
    decryptBlock s.cfg.tables s.opIn 0#10 = s.opPt ∧ decryptBlock s.cfg.tables 1#8 0#10 ≠ s.opPt :=
  ⟨{ dispatched with schedule := [.lane 0] }, by decide +kernel⟩
theorem witness_Join : ∃ s : State, s.cfg.wellFormed = true ∧ s.schedule = [.commandUnit] ∧ s.op = some .search ∧
    (∀ l ∈ s.lanes, l = .idle) ∧ s.nextKey = 1024 ∧ s.cancel = true :=
  ⟨{ searching with schedule := [.commandUnit], nextKey := 1024, cancel := true }, by decide⟩
/-- A step that answers a next state: the statements about `step s = .next t`. -/
theorem witness_StepNext : ∃ s t : State, Inv s ∧ timesOrdered s ∧ step s = .next t ∧ s.time.toNat ≤ t.time.toNat ∧ s.op = some .search :=
  ⟨{ searching with schedule := [.clock] }, { tick searching with schedule := [] },
    searching_inv.ownFields [] [] [.clock] 0, by simp [timesOrdered, searching, accept, searchStart], rfl, by decide, rfl⟩
theorem witness_FinishedSearch : Inv finishedSearch ∧ finishedSearch.lastop = 4#4 ∧ finishedSearch.op = none ∧ finishedSearch.aborted = false ∧
    finishedSearch.cfg.nLanes = 1 := ⟨finishedSearch_inv, rfl, rfl, rfl, rfl⟩
theorem witness_AbortedSearch : Inv abortedSearch ∧ abortedSearch.lastop = 4#4 ∧ abortedSearch.op = none ∧ abortedSearch.aborted = true ∧
    abortedSearch.nextKey = 1 := ⟨abortedSearch_inv, by decide +kernel, rfl, by decide +kernel, by decide +kernel⟩
/-- BusyBlockHasAnEnabledWorker, WorkerStepsAreUsedUp, WorkCommandCanAlwaysFinish. -/
theorem witness_Workers : Inv dispatched ∧ dispatched.op ≠ none ∧ dispatched.cancel = false ∧ isWorker (.lane 0) = true ∧
    agentEnabled (.lane 0) dispatched = true := ⟨dispatched_inv, by decide, rfl, rfl, by decide⟩
theorem witness_IdleBlock : Inv small ∧ small.op = none ∧ Agent.clock ≠ .host ∧ Agent.clock ≠ .platform := ⟨small_inv, rfl, by decide, by decide⟩
/-- The host's write of ENCRYPT to CMD moves the idle block. -/
theorem witness_IdleBlock_moved : ∃ s t : State, Inv s ∧ s.op = none ∧ step s = .next t ∧ t.op ≠ none :=
  ⟨{ small with script := [.write 0x00C 4 2#32], schedule := [.host] }, accept .encrypt { small with script := [], schedule := [] },
    small_inv.ownFields _ _ _ _, rfl, rfl, by decide⟩
theorem witness_Disabled : agentEnabled .clock small = false ∧ agentEnabled .host small = false ∧ agentEnabled (.dispatcher 0) small = false := by decide
theorem witness_UnusedParameters : small.cfg.wellFormed = true ∧ 512 % 512 = 0 := by decide
theorem witness_OtherOffsets : (0x000 ∉ [0x008, 0x00C, 0x010, 0x014, 0x018, 0x01C, 0x030] ∧ 0x000 % 4 = 0) ∧
    (0x1FC < 512 ∧ 0x1FC % 4 = 0 ∧ 0x180 ≤ 0x1FC) ∧ (0x040 ≤ 0x0FC ∧ 0x0FC ≤ 0x0FC ∧ 0x0FC % 4 = 0) := by decide
theorem witness_SelectedResult : Inv abortedSearch ∧ abortedSearch.op = none ∧ abortedSearch.resIndex.toNat < abortedSearch.count ∧
    (Inv small ∧ small.count ≤ small.resIndex.toNat) ∧ (Inv searching ∧ searching.op ≠ none) :=
  ⟨abortedSearch_inv, rfl, by decide +kernel, ⟨small_inv, by decide⟩, searching_inv, by decide⟩
theorem witness_MatchMap : Inv abortedSearch ∧ abortedSearch.op = none ∧ 31 < 32 ∧
    (Inv searching ∧ searching.op ≠ none) := ⟨abortedSearch_inv, rfl, by decide, searching_inv, by decide⟩
theorem witness_Progress : Inv dispatched ∧ dispatched.nextKey = 1 := ⟨dispatched_inv, rfl⟩
theorem witness_Reads : ∃ s : State, s.cfg.wellFormed = true ∧ s.schedule = [.host] ∧ s.script = [.read 0x1FC 4] ∧ 0x1FC < 512 ∧ 0x1FC % 4 = 0 :=
  ⟨{ small with script := [.read 0x1FC 4], schedule := [.host] }, by decide⟩
theorem witness_Polls : ∃ s : State, s.cfg.wellFormed = true ∧ s.schedule = [.host] ∧ s.script = [.poll 0x010 1#32 0#32] ∧
    readWindow s 0x010 &&& 1#32 = 0#32 ∧ readWindow searching 0x010 &&& 1#32 ≠ 0#32 :=
  ⟨{ small with script := [.poll 0x010 1#32 0#32], schedule := [.host] }, by decide⟩
theorem witness_BusErrors : ∃ s : State, s.cfg.wellFormed = true ∧ s.schedule = [.host] ∧ s.script = [.write 0x1FC 2 0#32] ∧
    0x1FC < 512 ∧ ((0x1FC % 4 ≠ 0 ∨ (2 : Nat) ≠ 4) ∧ (0x1FF % 4 ≠ 0 ∨ (4 : Nat) ≠ 4)) :=
  ⟨{ small with script := [.write 0x1FC 2 0#32], schedule := [.host] }, by decide⟩
theorem witness_OutsideTheWindow : ∃ s : State, s.cfg.wellFormed = true ∧ s.schedule = [.host] ∧ s.script = [.read 512 4] ∧ 512 ≤ 512 :=
  ⟨{ small with script := [.read 512 4], schedule := [.host] }, by decide⟩
theorem witness_OutsideTheWindow_poll : ∃ s : State, s.cfg.wellFormed = true ∧ s.schedule = [.host] ∧ s.script = [.poll 512 1#32 0#32] ∧ 512 ≤ 512 :=
  ⟨{ small with script := [.poll 512 1#32 0#32], schedule := [.host] }, by decide⟩
/-- R12: the two ends of the key string 1010000010. -/
theorem witness_HostStrings_bits : elt (seqOf 10 (binaryVal "1010000010".toList)) 0 = true ∧ "1010000010".toList[0]? = some '1' ∧
    elt (seqOf 10 (binaryVal "1010000010".toList)) 9 = false ∧ "1010000010".toList[9]? = some '0' := by decide +kernel
theorem witness_HostStrings : (['1', '0'].length ≠ 8) ∧
    ((List.replicate 8 '2').length = 8 ∧ ∃ c ∈ List.replicate 8 '2', c ≠ '0' ∧ c ≠ '1') ∧
    ((List.replicate 10 '1').length = 10 ∧ ∀ c ∈ List.replicate 10 '1', c = '0' ∨ c = '1') :=
  ⟨by simp, ⟨by simp, '2', by simp⟩, by simp⟩
/-- HostUsesTheValuesItHasRead: a value to copy, the latest of two; none; and a loop over the one result of `abortedSearch`. -/
theorem witness_HostUses : ∃ s : State, s.cfg.wellFormed = true ∧ s.schedule = [.host] ∧ s.script = [.copy 0x018 0x020] ∧
    s.record = [⟨0x020, 1#32⟩] ++ ⟨0x020, 2#32⟩ :: [⟨0x010, 0#32⟩] ∧ (∀ r ∈ [(⟨0x010, 0#32⟩ : Reading)], r.off ≠ 0x020) ∧
    (∀ r ∈ small.record, r.off ≠ 0x020) :=
  ⟨{ small with script := [.copy 0x018 0x020], schedule := [.host], record := [⟨0x020, 1#32⟩, ⟨0x020, 2#32⟩, ⟨0x010, 0#32⟩] }, by decide⟩
theorem witness_HostReadsResults : ∃ s : State, Inv s ∧ s.op = none ∧ s.script = [.readResults] ∧ s.count = 1 ∧
    recorded 0x02C s.record = some (readWindow s 0x02C) :=
  ⟨{ abortedSearch with script := [.readResults], record := [⟨0x02C, 1#32⟩] },
    abortedSearch_inv.ownFields _ _ _ _, by decide +kernel, rfl, by decide +kernel, by decide +kernel⟩

/-- A KEYSCHED accepted, then turns of the command unit for ever. -/
def keyschedRun : Nat → State
  | 0 => accept .keysched small
  | _ + 1 => commandUnitTurn (accept .keysched small)

theorem keyschedRun_isRun : IsRun (fun _ => .commandUnit) keyschedRun
  | 0 => step_of_schedule (s := { accept .keysched small with schedule := [.commandUnit] }) (by show small.cfg.wellFormed = true; decide) rfl
  | _ + 1 => step_of_schedule (s := { commandUnitTurn (accept .keysched small) with schedule := [.commandUnit] })
      (by show small.cfg.wellFormed = true; decide) rfl

/-- No worker of `keyschedRun` stays enabled: after the first turn none is. -/
theorem keyschedRun_fair : WeaklyFair (fun _ => .commandUnit) keyschedRun := by
  intro w n h
  obtain ⟨a, ha, he⟩ := h (n + 1) (Nat.le_succ n)
  change agentEnabled a (commandUnitTurn (accept .keysched small)) = true at he
  cases a with
  | commandUnit => cases he
  | dispatcher j => cases he
  | lane j => cases j <;> cases he
  | host => cases ha
  | clock => cases ha
  | platform => cases ha

theorem witness_FairRun : ∃ turns states, IsRun turns states ∧ WeaklyFair turns states ∧ Inv (states 0) ∧ (states 0).op ≠ none :=
  ⟨_, keyschedRun, keyschedRun_isRun, keyschedRun_fair, small_inv.accept rfl .keysched, by decide⟩

end Sys2Proof.Tests
end

section
/-!
The obligations of the family of 00_scope.md: the configuration (rules R8, R167, R396), the host's strings (rules R109, R345), and the
S-box index in register terms (rule R201).
-/

namespace Sys2Proof.Machine

/-! ## The configuration is kept (rule R167) -/

@[simp] theorem commandUnitTurn_cfg (s : State) : (commandUnitTurn s).cfg = s.cfg := by
  unfold commandUnitTurn
  split
  · rfl
  · rfl
  · rfl
  · rfl
  · split <;> rfl

@[simp] theorem dispatcherTurn_cfg (j : Nat) (s : State) : (dispatcherTurn j s).cfg = s.cfg := by
  unfold dispatcherTurn
  split <;> rfl

@[simp] theorem laneTurn_cfg (j : Nat) (s : State) : (laneTurn j s).cfg = s.cfg := by
  unfold laneTurn
  split
  · rw [evaluateKey_frame]
  · rfl
  · rfl

@[simp] theorem clockTurn_cfg (s : State) : (clockTurn s).cfg = s.cfg := by
  unfold clockTurn
  split <;> rfl

@[simp] theorem platformTurn_cfg (s : State) : (platformTurn s).cfg = s.cfg := rfl

/-- No agent's turn changes the configuration. -/
theorem agentTurn_cfg {a : Agent} {s t : State} (h : agentTurn a s = .next t) : t.cfg = s.cfg := by
  cases a with
  | host => exact (hostTurn_keeps h).cfg
  | commandUnit => rw [← Host.Outcome.next.inj h, commandUnitTurn_cfg]
  | dispatcher j => rw [← Host.Outcome.next.inj h, dispatcherTurn_cfg]
  | lane j => rw [← Host.Outcome.next.inj h, laneTurn_cfg]
  | clock => rw [← Host.Outcome.next.inj h, clockTurn_cfg]
  | platform => rw [← Host.Outcome.next.inj h, platformTurn_cfg]

/-- Settles O43: a step is one agent's turn, and every agent's turn keeps the configuration. -/
theorem configurationNeverChanges : Obligations.ConfigurationNeverChanges := by
  intro s t h
  obtain ⟨-, a, schedule, draws, ht, -⟩ := step_cases h
  have hcfg := agentTurn_cfg ht
  exact hcfg

/-! ## The parameters that no rule reads (rules R8, R396) -/

/-- The state with the unused parameters of rule R8 taken from `d`: only the tables and the number of lanes stay. -/
def withUnusedOf (d : Config) (s : State) : State :=
  { s with cfg := { d with tables := s.cfg.tables, nLanes := s.cfg.nLanes } }

/-- An outcome with its next state, if there is one, mapped by `f`. -/
def mapNext (f : State → State) : Host.Outcome State Fault Refusal → Host.Outcome State Fault Refusal
  | .next s => .next (f s)
  | .fault r => .fault r
  | .refused r => .refused r

section
variable (d : Config) (s : State)

@[simp] theorem withUnusedOf_op : (withUnusedOf d s).op = s.op := rfl
@[simp] theorem withUnusedOf_lanes : (withUnusedOf d s).lanes = s.lanes := rfl
@[simp] theorem withUnusedOf_script : (withUnusedOf d s).script = s.script := rfl

/-- PARAM reads the tables and the number of lanes, and no other register reads the configuration (rule R32). -/
@[simp] theorem readWindow_withUnusedOf (off : Nat) : readWindow (withUnusedOf d s) off = readWindow s off := rfl

theorem issueWork_withUnusedOf (c : WorkCmd) : issueWork c (withUnusedOf d s) = withUnusedOf d (issueWork c s) := by
  by_cases ho : s.op = none
  · cases hw : widthsOk c s
    · rw [issueWork_invalid ho hw, issueWork_invalid (s := withUnusedOf d s) ho hw]; rfl
    · rw [issueWork_accept ho hw, issueWork_accept (s := withUnusedOf d s) ho hw]
      cases c <;> rfl
  · rw [issueWork_busy ho, issueWork_busy (s := withUnusedOf d s) ho]; rfl

theorem abortRequest_withUnusedOf : abortRequest (withUnusedOf d s) = withUnusedOf d (abortRequest s) :=
  (apply_ite (withUnusedOf d) (s.op = some .search) { s with cancel := true } s).symm

theorem exec_withUnusedOf (i : Instr) : exec i (withUnusedOf d s) = mapNext (withUnusedOf d) (exec i s) := by
  cases i with
  | nop => rfl
  | keysched => exact congrArg _ (issueWork_withUnusedOf d s .keysched)
  | encrypt => exact congrArg _ (issueWork_withUnusedOf d s .encrypt)
  | decrypt => exact congrArg _ (issueWork_withUnusedOf d s .decrypt)
  | search => exact congrArg _ (issueWork_withUnusedOf d s .search)
  | abort => exact congrArg _ (abortRequest_withUnusedOf d s)

theorem issue_withUnusedOf (w : Word) : issue w (withUnusedOf d s) = mapNext (withUnusedOf d) (issue w s) := by
  unfold issue
  cases decode w with
  | ok i => exact exec_withUnusedOf d s i
  | error e => rfl

theorem writeReg_withUnusedOf (r : Reg) (v : Word) :
    writeReg r v (withUnusedOf d s) = withUnusedOf d (writeReg r v s) := by
  cases r
  case status => simp only [writeReg, writeStatus]; split <;> split <;> rfl
  all_goals rfl

theorem memWrite_withUnusedOf (off : Nat) (v : Word) :
    memWrite off v (withUnusedOf d s) = mapNext (withUnusedOf d) (memWrite off v s) := by
  unfold memWrite
  split
  · exact issue_withUnusedOf d s v
  · exact congrArg _ (writeReg_withUnusedOf d s _ v)
  · rfl

theorem mapNext_admitted (f : State → State) (off width : Nat) (o : Host.Outcome State Fault Refusal) :
    mapNext f (admitted off width o) = admitted off width (mapNext f o) := by
  unfold admitted
  split
  · rfl
  · split <;> rfl

/-- What the host does with a recorded value commutes with the change where its use of the value does. -/
theorem withRecorded_withUnusedOf (src : Nat) {use use' : Word → Host.Outcome State Fault Refusal}
    (h : ∀ v, use' v = mapNext (withUnusedOf d) (use v)) :
    withRecorded src (withUnusedOf d s) use' = mapNext (withUnusedOf d) (withRecorded src s use) := by
  cases hr : recorded src s.record with
  | none => rw [withRecorded_none hr, withRecorded_none (s := withUnusedOf d s) hr]; rfl
  | some v => rw [withRecorded_some hr, withRecorded_some (s := withUnusedOf d s) hr, h]

theorem transact_withUnusedOf (op : HostOp) :
    transact op (withUnusedOf d s) = mapNext (withUnusedOf d) (transact op s) := by
  cases op with
  | write off width v => simp only [transact, memWrite_withUnusedOf, mapNext_admitted]
  | read off width =>
    simp only [transact, readWindow_withUnusedOf, mapNext_admitted]
    rfl
  | poll off mask value =>
    simp only [transact, mapNext_admitted]
    exact congrArg (fun u => admitted off 4 (.next u)) (apply_ite (withUnusedOf d) (readWindow s off &&& mask = value) s
      { s with script := .poll off mask value :: s.script }).symm
  | copy off src =>
    exact withRecorded_withUnusedOf d s src fun v => by rw [memWrite_withUnusedOf, mapNext_admitted]
  | readResults => exact withRecorded_withUnusedOf d s _ fun _ => rfl

theorem hostTurn_withUnusedOf : hostTurn (withUnusedOf d s) = mapNext (withUnusedOf d) (hostTurn s) := by
  simp only [hostTurn, withUnusedOf_script]
  split
  · rfl
  · rename_i op rest _
    exact transact_withUnusedOf d { s with script := rest } op

theorem commandUnitTurn_withUnusedOf : commandUnitTurn (withUnusedOf d s) = withUnusedOf d (commandUnitTurn s) := by
  simp only [commandUnitTurn, withUnusedOf_op]
  split
  · rfl
  · rfl
  · rfl
  · rfl
  · exact (apply_ite (withUnusedOf d) (joinEnabled s = true) (join s) s).symm

theorem dispatcherTurn_withUnusedOf (j : Nat) :
    dispatcherTurn j (withUnusedOf d s) = withUnusedOf d (dispatcherTurn j s) :=
  (apply_ite (withUnusedOf d) (dispatchEnabled j s = true) (dispatch j s) s).symm

theorem evaluateKey_withUnusedOf (j : Nat) (k : Key) :
    evaluateKey j k (withUnusedOf d s) = withUnusedOf d (evaluateKey j k s) := by
  rw [evaluateKey_frame, evaluateKey_frame]
  rfl

theorem laneTurn_withUnusedOf (j : Nat) : laneTurn j (withUnusedOf d s) = withUnusedOf d (laneTurn j s) := by
  simp only [laneTurn, withUnusedOf_lanes]
  split
  · exact evaluateKey_withUnusedOf d s j _
  · rfl
  · rfl

theorem clockTurn_withUnusedOf : clockTurn (withUnusedOf d s) = withUnusedOf d (clockTurn s) :=
  (apply_ite (withUnusedOf d) (s.op = some .search) (tick s) s).symm

theorem agentTurn_withUnusedOf (a : Agent) :
    agentTurn a (withUnusedOf d s) = mapNext (withUnusedOf d) (agentTurn a s) := by
  cases a with
  | host => exact hostTurn_withUnusedOf d s
  | commandUnit => exact congrArg _ (commandUnitTurn_withUnusedOf d s)
  | dispatcher j => exact congrArg _ (dispatcherTurn_withUnusedOf d s j)
  | lane j => exact congrArg _ (laneTurn_withUnusedOf d s j)
  | clock => exact congrArg _ (clockTurn_withUnusedOf d s)
  | platform => rfl

/-- Which agent moves does not depend on the configuration. -/
theorem takeTurn_withUnusedOf :
    takeTurn (withUnusedOf d s) = ((takeTurn s).1, withUnusedOf d (takeTurn s).2) := by
  cases hs : s.schedule <;> simp only [takeTurn, hs, withUnusedOf]

/-- Under well-formed configurations a step commutes with the change of the unused parameters. -/
theorem step_withUnusedOf (hc : s.cfg.wellFormed = true) (hd : d.base % 512 = 0) :
    step (withUnusedOf d s) = mapNext (withUnusedOf d) (step s) := by
  have hw : (withUnusedOf d s).cfg.wellFormed = true := by
    simp only [Config.wellFormed, Bool.and_eq_true, beq_iff_eq] at hc
    obtain ⟨hpos, hmax, -, ht⟩ := hc
    simp [Config.wellFormed, withUnusedOf, hd, ht, of_decide_eq_true hpos, of_decide_eq_true hmax]
  rw [step, if_pos hw, step, if_pos hc, takeTurn_withUnusedOf]
  exact agentTurn_withUnusedOf d _ _

end

/-- Settles O45: the change of the five parameters is `withUnusedOf`, and every step commutes with it. -/
theorem unusedParametersHaveNoEffect : Obligations.UnusedParametersHaveNoEffect := by
  intro s base irqLine clkPeriod latCipher latLane hc hb changed
  have hstep : step (changed s) = mapNext changed (step s) :=
    step_withUnusedOf ⟨s.cfg.tables, s.cfg.nLanes, base, irqLine, clkPeriod, latCipher, latLane⟩ s hc hb
  refine ⟨fun t h => ?_, fun f h => ?_, fun r h => ?_⟩ <;> rw [hstep, h] <;> rfl

/-! ## The host's strings (rules R12, R109, R345) -/

theorem validateString_of_length_ne {n : Nat} {chars : List Char} (h : chars.length ≠ n) :
    validateString n chars = .error .invalidLength := by
  simp [validateString, h]

theorem validateString_of_bad_symbol {chars : List Char} (h : ∃ c ∈ chars, c ≠ '0' ∧ c ≠ '1') :
    validateString chars.length chars = .error .invalidSymbol := by
  simpa [validateString] using h

theorem validateString_of_binary {chars : List Char} (h : ∀ c ∈ chars, c = '0' ∨ c = '1') :
    validateString chars.length chars = .ok (BitVec.ofNat 32 (binaryVal chars)) := by
  simp only [validateString, ne_eq, not_true_eq_false, if_false]
  exact if_pos (by simpa using h)

/-- A pseudo-instruction whose string fails validation emits no transaction and ends the script. -/
theorem scriptTransactions_of_error {p : Pseudo} {r : Reg} {n : Nat} {chars : List Char} {e : HostError}
    (hp : expandPseudo p = setRegister r n chars) (h : validateString n chars = .error e) :
    scriptTransactions [.pseudo p] = ([], some e) := by
  simp [scriptTransactions, expandStmt, hp, setRegister, h, Except.map]

/-- A pseudo-instruction with a valid string emits the one write of its value. -/
theorem scriptTransactions_of_ok {p : Pseudo} {r : Reg} {n : Nat} {chars : List Char} {v : Word}
    (hp : expandPseudo p = setRegister r n chars) (h : validateString n chars = .ok v) :
    scriptTransactions [.pseudo p] = ([.write (regOffset r) 4 v], none) := by
  simp [scriptTransactions, expandStmt, hp, setRegister, h, Except.map, encodeStmt]

/-- Element `i`, counted from the left, is bit `n - 1 - i` (rule R12). -/
theorem elt_eq_getLsbD {n : Nat} (s : BitVec n) {i : Nat} (h : i < n) : elt s i = s.getLsbD (n - 1 - i) := by
  simp [elt, BitVec.getMsbD_eq_getLsbD, h]

/-- Bit `length - 1 - i` of the number a string reads as is its character `i`. -/
theorem testBit_binaryVal (chars : List Char) {i : Nat} (h : i < chars.length) :
    (binaryVal chars).testBit (chars.length - 1 - i) = true ↔ chars[i]? = some '1' := by
  induction chars generalizing i with
  | nil => cases h
  | cons c cs ih =>
    rw [binaryVal_cons, Nat.mul_comm, Nat.testBit_two_pow_mul_add _ (binaryVal_lt cs)]
    cases i with
    | zero => by_cases hc : c = '1' <;> simp [hc]
    | succ i =>
      have hi : i < cs.length := by simpa using h
      have hbit : (c :: cs).length - 1 - (i + 1) = cs.length - 1 - i := by simp [Nat.sub_add_eq, Nat.sub_right_comm]
      rw [hbit, if_pos (by omega), List.getElem?_cons_succ]
      exact ih hi

theorem elt_binaryVal (chars : List Char) {i : Nat} (h : i < chars.length) :
    elt (seqOf chars.length (binaryVal chars)) i = true ↔ chars[i]? = some '1' := by
  have hlt : chars.length - 1 - i < chars.length := by omega
  rw [← testBit_binaryVal chars h, elt_eq_getLsbD _ h, seqOf, BitVec.getLsbD_ofNat, decide_eq_true hlt, Bool.true_and]

/-- Settles O57: each SET form is `setRegister` of its register, and its outcome is that of the string's validation. -/
theorem hostValidatesStrings : Obligations.HostValidatesStrings := by
  intro n reg set hset chars
  have hp : expandPseudo (set chars) = setRegister reg n chars := by
    rcases hset with ⟨rfl, rfl, rfl⟩ | ⟨rfl, rfl, rfl⟩ | ⟨rfl, rfl, rfl⟩ <;> rfl
  clear hset
  refine ⟨fun hl => scriptTransactions_of_error hp (validateString_of_length_ne hl), ?_, ?_⟩
  · rintro rfl hbad
    exact scriptTransactions_of_error hp (validateString_of_bad_symbol hbad)
  · rintro rfl hbin
    exact ⟨scriptTransactions_of_ok hp (validateString_of_binary hbin), binaryVal_lt chars, fun i hi => elt_binaryVal chars hi⟩

/-! ## The S-box index in register terms (rules R12, R200, R201) -/

/-- The row of an S-box input is selected by its outer bits, 3 and 0. -/
theorem sboxRow_eq_outer_bits (v : Half) : sboxRow v = 2 * (v.getLsbD 3).toNat + (v.getLsbD 0).toNat := by
  rw [sboxRow, elt_eq_getLsbD v (by decide), elt_eq_getLsbD v (by decide)]

/-- The column of an S-box input is selected by its inner bits, 2 and 1. -/
theorem sboxCol_eq_inner_bits (v : Half) : sboxCol v = 2 * (v.getLsbD 2).toNat + (v.getLsbD 1).toNat := by
  rw [sboxCol, elt_eq_getLsbD v (by decide), elt_eq_getLsbD v (by decide)]

/-- Settles O24: the elements that index the table, counted from the left, are read as the register's bits. -/
theorem sboxOuterBitsSelectTheRow : Obligations.SboxOuterBitsSelectTheRow := by
  intro b v
  rw [sbox, sboxRow_eq_outer_bits, sboxCol_eq_inner_bits]

end Sys2Proof.Machine
end

section
/-!
The obligations of the family of 10_state.md: the invariant (rules R57, R59), the steps that may change TIME, DOUT, SUBKEYS and the
operand registers (rules R36, R39, R40, R47, R58), and the register window (rules R30 to R49).
-/

namespace Sys2Proof.Machine

/-! ## The invariant (rules R57, R59) -/

/-- Every agent's turn keeps the invariant. -/
theorem Inv.agentTurn {a : Agent} {s t : State} (h : Inv s) (ht : agentTurn a s = .next t) : Inv t := by
  cases a with
  | host => exact h.hostTurn ht
  | commandUnit => obtain rfl := Host.Outcome.next.inj ht; exact h.commandUnitTurn
  | dispatcher j => obtain rfl := Host.Outcome.next.inj ht; exact h.dispatcherTurn j
  | lane j => obtain rfl := Host.Outcome.next.inj ht; exact h.laneTurn j
  | clock => obtain rfl := Host.Outcome.next.inj ht; exact h.clockTurn
  | platform => obtain rfl := Host.Outcome.next.inj ht; exact h.platformTurn

/-- Settles O34: a step is one agent's turn, from a state that differs in the schedule and the count of draws only. -/
theorem stepKeepsTheInvariant : Obligations.StepKeepsTheInvariant := by
  intro s t h ht
  obtain ⟨-, a, schedule, draws, hturn, -⟩ := step_cases ht
  exact (h.ownFields s.script s.record schedule draws).agentTurn hturn

theorem resetWith_lanes_idle (c : Config) : ∀ l ∈ (State.resetWith c).lanes, l = .idle :=
  fun _ hl => List.eq_of_mem_replicate hl

theorem resetWith_atRest (c : Config) : AtRest (State.resetWith c) where
  op := rfl
  lanes := resetWith_lanes_idle c
  nextKey := rfl
  evaluated := rfl
  cancel := rfl
  sink := rfl
  count := rfl
  map := rfl
  err := rfl
  errcode := rfl
  lastop := rfl

/-- Settles O4: a reset block is at rest, with N_LANES lanes. -/
theorem invariantHoldsAfterReset : Obligations.InvariantHoldsAfterReset := by
  have hinv (c : Config) (hc : c.wellFormed = true) : Inv (State.resetWith c) :=
    (resetWith_atRest c).inv hc List.length_replicate
  exact ⟨hinv, hinv Config.default (by decide)⟩

/-! ## What the turns of the internal agents change (rule R58) -/

/-- The command unit waits, completes a cipher command, or joins a SEARCH (rules R148, R286). -/
theorem commandUnitTurn_cases (s : State) :
    commandUnitTurn s = s ∨
    (s.op = some .keysched ∧ commandUnitTurn s = completeKeysched s) ∨
    (s.op = some .encrypt ∧ commandUnitTurn s = completeEncrypt s) ∨
    (s.op = some .decrypt ∧ commandUnitTurn s = completeDecrypt s) ∨
    (s.op = some .search ∧ joinEnabled s = true ∧ commandUnitTurn s = join s) := by
  unfold commandUnitTurn
  split
  · exact .inl rfl
  · rename_i ho; exact .inr (.inl ⟨ho, rfl⟩)
  · rename_i ho; exact .inr (.inr (.inl ⟨ho, rfl⟩))
  · rename_i ho; exact .inr (.inr (.inr (.inl ⟨ho, rfl⟩)))
  · rename_i ho
    split
    · rename_i he; exact .inr (.inr (.inr (.inr ⟨ho, he, rfl⟩)))
    · exact .inl rfl

/-- The command unit never writes TIME. -/
theorem commandUnitTurn_time (s : State) : (commandUnitTurn s).time = s.time := by
  rcases commandUnitTurn_cases s with h | ⟨-, h⟩ | ⟨-, h⟩ | ⟨-, h⟩ | ⟨-, -, h⟩ <;> rw [h] <;> rfl

/-- The dispatcher's turn changes NEXT_KEY and the lanes only (rule R278). -/
theorem dispatcherTurn_frame (j : Nat) (s : State) :
    ∃ lanes nextKey, dispatcherTurn j s = { s with lanes := lanes, nextKey := nextKey } := by
  unfold dispatcherTurn
  split
  · exact ⟨_, _, rfl⟩
  · exact ⟨_, _, rfl⟩

/-- A lane's turn changes EVALUATED, the lanes and the result sink only (rule R280). -/
theorem laneTurn_frame (j : Nat) (s : State) :
    ∃ evaluated lanes sink count map,
      laneTurn j s = { s with evaluated := evaluated, lanes := lanes, sink := sink, count := count, map := map } := by
  unfold laneTurn
  split
  · exact ⟨_, _, _, _, _, evaluateKey_frame j _ s⟩
  · exact ⟨_, _, _, _, _, rfl⟩
  · exact ⟨_, _, _, _, _, rfl⟩

theorem clockTurn_of_search {s : State} (h : s.op = some .search) : clockTurn s = tick s := if_pos h

theorem clockTurn_of_not_search {s : State} (h : s.op ≠ some .search) : clockTurn s = s := if_neg h

/-- The clock's turn changes TIME only (rule R288). -/
theorem clockTurn_frame (s : State) : ∃ time, clockTurn s = { s with time := time } := by
  unfold clockTurn
  split
  · exact ⟨_, rfl⟩
  · exact ⟨_, rfl⟩

/-- Settles O42: the condition that enables an agent's step is the one its turn tests. -/
theorem disabledAgentChangesNothing : Obligations.DisabledAgentChangesNothing := by
  intro s a h
  cases a with
  | host =>
    have hs : s.script = [] := by simpa [agentEnabled] using h
    simp only [agentTurn, hostTurn, hs]
  | commandUnit =>
    refine congrArg Host.Outcome.next ?_
    unfold agentEnabled at h
    cases ho : s.op with
    | none => simp only [commandUnitTurn, ho]
    | some c =>
      cases c with
      | search =>
        have hj : joinEnabled s = false := by simpa only [ho] using h
        simp [commandUnitTurn, ho, hj]
      | keysched => simp [ho] at h
      | encrypt => simp [ho] at h
      | decrypt => simp [ho] at h
  | dispatcher j =>
    have hd : dispatchEnabled j s = false := h
    simp [agentTurn, dispatcherTurn, hd]
  | lane j =>
    refine congrArg Host.Outcome.next ?_
    unfold agentEnabled at h
    unfold laneTurn
    split
    · rename_i hj; simp [hj] at h
    · rfl
    · rfl
  | clock =>
    have ho : s.op ≠ some .search := by simpa [agentEnabled] using h
    exact congrArg Host.Outcome.next (clockTurn_of_not_search ho)
  | platform => cases h

/-! ## TIME (rules R47, R288) -/

/-- The turns that change TIME: the clock's during a SEARCH, the host's at a SEARCH's acceptance, and the reset step. -/
theorem agentTurn_time {a : Agent} {s t : State} (h : agentTurn a s = .next t) :
    t.time = s.time ∨ (s.op = some .search ∧ a = .clock ∧ t.time = s.time + 1#32) ∨
    (t.time = 0#32 ∧ ((s.op = none ∧ t.op = some .search) ∨ a = .platform)) := by
  cases a with
  | host =>
    rcases (hostTurn_keeps h).searchResults with ⟨htime, -⟩ | ⟨htime, -, hidle, hsearch⟩
    · exact .inl htime
    · exact .inr (.inr ⟨htime, .inl ⟨hidle, hsearch⟩⟩)
  | commandUnit =>
    obtain rfl := Host.Outcome.next.inj h
    exact .inl (commandUnitTurn_time s)
  | dispatcher j =>
    obtain ⟨lanes, nextKey, hframe⟩ := dispatcherTurn_frame j s
    rw [← Host.Outcome.next.inj h, hframe]
    exact .inl rfl
  | lane j =>
    obtain ⟨evaluated, lanes, sink, count, map, hframe⟩ := laneTurn_frame j s
    rw [← Host.Outcome.next.inj h, hframe]
    exact .inl rfl
  | clock =>
    rw [← Host.Outcome.next.inj h]
    by_cases ho : s.op = some .search
    · rw [clockTurn_of_search ho]
      exact .inr (.inl ⟨ho, rfl, rfl⟩)
    · rw [clockTurn_of_not_search ho]
      exact .inl rfl
  | platform =>
    rw [← Host.Outcome.next.inj h]
    exact .inr (.inr ⟨rfl, .inr rfl⟩)

/-- Settles O32: of the agents only the clock, the host at a SEARCH's acceptance and the platform can change TIME. -/
theorem timeAdvancesOnlyDuringASearch : Obligations.TimeAdvancesOnlyDuringASearch := by
  refine ⟨fun s ho => congrArg Host.Outcome.next (clockTurn_of_search ho), ?_⟩
  intro s t h
  obtain ⟨-, a, schedule, draws, ht, hagent⟩ := step_cases h
  rw [takeTurn_agent hagent]
  have htime := agentTurn_time ht
  exact htime

/-! ## The operand registers (rules R36, R83, R143) -/

/-- The state with other values in KEY, DIN and TARGET. -/
def withOperands (key din target : Word) (s : State) : State := { s with key := key, din := din, target := target }

section
variable (key din target : Word) (s : State)

@[simp] theorem withOperands_op : (withOperands key din target s).op = s.op := rfl
@[simp] theorem withOperands_lanes : (withOperands key din target s).lanes = s.lanes := rfl

theorem commandUnitTurn_withOperands :
    commandUnitTurn (withOperands key din target s) = withOperands key din target (commandUnitTurn s) := by
  simp only [commandUnitTurn, withOperands_op]
  split
  · rfl
  · rfl
  · rfl
  · rfl
  · exact (apply_ite (withOperands key din target) (joinEnabled s = true) (join s) s).symm

theorem dispatcherTurn_withOperands (j : Nat) :
    dispatcherTurn j (withOperands key din target s) = withOperands key din target (dispatcherTurn j s) :=
  (apply_ite (withOperands key din target) (dispatchEnabled j s = true) (dispatch j s) s).symm

theorem laneTurn_withOperands (j : Nat) :
    laneTurn j (withOperands key din target s) = withOperands key din target (laneTurn j s) := by
  simp only [laneTurn, withOperands_lanes]
  split
  · rw [evaluateKey_frame, evaluateKey_frame]; rfl
  · rfl
  · rfl

theorem clockTurn_withOperands :
    clockTurn (withOperands key din target s) = withOperands key din target (clockTurn s) :=
  (apply_ite (withOperands key din target) (s.op = some .search) (tick s) s).symm

end

/-- An internal agent's turn answers a next state and commutes with every change of the operand registers. -/
theorem internalTurn_withOperands {a : Agent} (hhost : a ≠ .host) (hplatform : a ≠ .platform) (s : State) :
    ∃ t, agentTurn a s = .next t ∧
      ∀ key din target, agentTurn a (withOperands key din target s) = .next (withOperands key din target t) := by
  cases a with
  | host => exact absurd rfl hhost
  | commandUnit => exact ⟨_, rfl, fun k d p => congrArg _ (commandUnitTurn_withOperands k d p s)⟩
  | dispatcher j => exact ⟨_, rfl, fun k d p => congrArg _ (dispatcherTurn_withOperands k d p s j)⟩
  | lane j => exact ⟨_, rfl, fun k d p => congrArg _ (laneTurn_withOperands k d p s j)⟩
  | clock => exact ⟨_, rfl, fun k d p => congrArg _ (clockTurn_withOperands k d p s)⟩
  | platform => exact absurd rfl hplatform

/-- Settles O21: an internal turn commutes with every change of KEY, DIN and TARGET; that it writes none of them is the case of the
change that puts in the values they have. -/
theorem completionReadsOnlyLatchedOperands : Obligations.CompletionReadsOnlyLatchedOperands := by
  intro s a key din target hhost hplatform
  obtain ⟨t, ht, hcomm⟩ := internalTurn_withOperands hhost hplatform s
  have hkept : t = withOperands s.key s.din s.target t :=
    Host.Outcome.next.inj (ht.symm.trans (hcomm s.key s.din s.target))
  have hkey : t.key = s.key := (congrArg State.key hkept).trans rfl
  have hdin : t.din = s.din := (congrArg State.din hkept).trans rfl
  have htarget : t.target = s.target := (congrArg State.target hkept).trans rfl
  exact ⟨t, ht, hkey, hdin, htarget, hcomm key din target⟩

/-! ## Offsets and registers (10_state.md, register map) -/

/-- `regAt` undoes `regOffset`. -/
@[simp] theorem regAt_regOffset (r : Reg) : regAt (regOffset r) = some r := by
  cases r
  case matchMap j =>
    have hdiv : (0x100 + 4 * j.val - 0x100) / 4 = j.val := by omega
    rw [regOffset, regAt, if_neg (by omega), if_pos (by omega), hdiv]
    exact congrArg (fun k => some (Reg.matchMap k)) (Fin.ofNat_val_eq_self j)
  all_goals rfl

/-- The reserved offsets hold no register (rule R49). -/
theorem regAt_reserved {off : Nat} (h : (0x040 ≤ off ∧ off ≤ 0x0FC) ∨ 0x180 ≤ off) : regAt off = none := by
  rw [regAt, if_neg (by omega), if_neg (by omega)]

/-- At an aligned offset `regOffset` undoes `regAt`. -/
theorem regOffset_of_regAt {off : Nat} {r : Reg} (ha : off % 4 = 0) (h : regAt off = some r) : regOffset r = off := by
  obtain ⟨k, rfl⟩ := Nat.dvd_of_mod_eq_zero ha
  by_cases hlow : k < 16
  · interval_cases k <;> (obtain rfl := Option.some.inj h; rfl)
  · rw [regAt, if_neg (by omega)] at h
    split at h
    · obtain rfl := Option.some.inj h
      have hj : (4 * k - 0x100) / 4 < 32 := by omega
      simp only [regOffset, Fin.ofNat, Nat.mod_eq_of_lt hj]
      omega
    · cases h

@[simp] theorem readWindow_regOffset (s : State) (r : Reg) : readWindow s (regOffset r) = readReg s r := by
  rw [readWindow, regAt_regOffset]

theorem readWindow_of_regAt_none (s : State) {off : Nat} (h : regAt off = none) : readWindow s off = 0#32 := by
  rw [readWindow, h]

/-- A host write at a register's offset, but for CMD, is that register's write (rule R76). -/
theorem memWrite_regOffset {r : Reg} (hr : r ≠ .cmd) (v : Word) (s : State) :
    memWrite (regOffset r) v s = .next (writeReg r v s) := by
  unfold memWrite
  rw [regAt_regOffset]
  cases r
  case cmd => exact absurd rfl hr
  all_goals rfl

theorem memWrite_of_regAt_none {off : Nat} (h : regAt off = none) (v : Word) (s : State) :
    memWrite off v s = .next s := by
  rw [memWrite, h]

/-- The registers other than those the host can write ignore a write (rules R31 to R48). -/
theorem writeReg_readOnly {r : Reg}
    (h : regOffset r ∉ [0x008, 0x00C, 0x010, 0x014, 0x018, 0x01C, 0x030]) (v : Word) (s : State) : writeReg r v s = s := by
  cases r
  case ctrl | status | key | din | target | resIndex => exact absurd h (by decide)
  all_goals rfl

/-- Settles O50: an aligned offset is a register's or holds no register. -/
theorem otherOffsetsIgnoreWrites : Obligations.OtherOffsetsIgnoreWrites := by
  intro off v s _ ha
  constructor
  · intro hoff
    cases hreg : regAt off with
    | none => exact memWrite_of_regAt_none hreg v s
    | some r =>
      obtain rfl := regOffset_of_regAt ha hreg
      have hcmd : r ≠ .cmd := by rintro rfl; exact absurd hoff (by decide)
      rw [memWrite_regOffset hcmd, writeReg_readOnly hoff]
  · rintro (rfl | hres)
    · rfl
    · exact readWindow_of_regAt_none s (regAt_reserved hres)

/-! ## Words made of fields -/

/-- A word of two fields, as a number. -/
theorem toNat_append_eq_add {n m : Nat} (x : BitVec n) (y : BitVec m) :
    (x ++ y).toNat = x.toNat * 2 ^ m + y.toNat := by
  rw [BitVec.toNat_append, ← Nat.shiftLeft_add_eq_or_of_lt y.isLt, Nat.shiftLeft_eq]

/-- A mask of the low `n` bits keeps the low field. -/
theorem and_low_mask (n : Nat) (v : Word) :
    v &&& BitVec.ofNat 32 (2 ^ n - 1) = (v.extractLsb' 0 n).setWidth 32 := by
  apply BitVec.eq_of_getLsbD_eq
  intro i hi
  simp only [BitVec.getLsbD_and, BitVec.getLsbD_ofNat, Nat.testBit_two_pow_sub_one, BitVec.getLsbD_setWidth,
    BitVec.getLsbD_extractLsb', hi, decide_true, Bool.true_and, Nat.zero_add, Bool.and_comm]

/-- PARAM is three fields: the number of lanes, TS_WIDTH and TABLES_ID (rule R32). -/
theorem paramWord_toNat {c : Config} (h : c.nLanes ≤ 1024) :
    (paramWord c).toNat = c.nLanes + 0x20 * 2 ^ 16 + (tablesId c.tables).toNat * 2 ^ 24 := by
  have hlanes : c.nLanes % 2 ^ 16 = c.nLanes := Nat.mod_eq_of_lt (by omega)
  simp only [paramWord, toNat_append_eq_add, BitVec.toNat_ofNat, hlanes]
  omega

/-! ## Reset (rule R59) -/

/-- After reset every register but ID and PARAM reads 0. -/
theorem readReg_resetWith (c : Config) {r : Reg} (hid : r ≠ .id) (hparam : r ≠ .param) :
    readReg (State.resetWith c) r = 0#32 := by
  cases r
  case id => exact absurd rfl hid
  case param => exact absurd rfl hparam
  case ctrl => simp [readReg, ctrlWord, State.resetWith]
  case status => simp [readReg, statusWord, irq, State.busy, State.resetWith]
  case subkeys => simp [readReg, subkeysWord, State.resetWith]
  case progress => simp [readReg, progressWord, State.resetWith]
  case resCount => simp [readReg, resCountWord, State.resetWith]
  case matchMap j => simp [readReg, matchMapWord, State.busy, State.resetWith]
  all_goals rfl

/-- Settles O2: ID and PARAM do not depend on the rest of the state, and every other offset is a register's that reads 0 after reset or
is reserved. -/
theorem resetWindowReads : Obligations.ResetWindowReads := by
  have hparam (s : State) (h : s.cfg.nLanes ≤ 1024) : (readWindow s 0x004).toNat =
      s.cfg.nLanes + 0x20 * 2 ^ 16 + (tablesId s.cfg.tables).toNat * 2 ^ 24 := paramWord_toNat h
  refine ⟨fun s => ⟨rfl, fun _ => hparam s⟩, fun c => ⟨rfl, fun _ => hparam (State.resetWith c), ?_⟩⟩
  intro off _ ha h0 h4
  cases hreg : regAt off with
  | none => exact readWindow_of_regAt_none _ hreg
  | some r =>
    obtain rfl := regOffset_of_regAt ha hreg
    rw [readWindow_regOffset]
    exact readReg_resetWith c (by rintro rfl; exact h0 rfl) (by rintro rfl; exact h4 rfl)

/-- Settles O1: CTRL, STATUS and the registers of the window read 0 by `readReg_resetWith`, and every other field has its value by
definition. -/
theorem resetLeavesTheResetValues : Obligations.ResetLeavesTheResetValues := by
  intro c s
  have hread {r : Reg} (hid : r ≠ .id) (hparam : r ≠ .param) : readReg s r = 0#32 := readReg_resetWith c hid hparam
  have hlen : s.lanes.length = c.nLanes := List.length_replicate
  exact ⟨rfl, hread (r := .ctrl) nofun nofun, hread (r := .status) nofun nofun, rfl, rfl, rfl,
    hread (r := .dout) nofun nofun, hread (r := .subkeys) nofun nofun, hread (r := .resIndex) nofun nofun,
    rfl, rfl, rfl, rfl, rfl, rfl, rfl, hlen, resetWith_lanes_idle c, rfl, rfl, rfl, rfl, rfl⟩

/-! ## DOUT and SUBKEYS (rules R39, R40) -/

/-- The fields of SUBKEYS (rule R40). -/
theorem subkeysWord_fields (s : State) :
    (subkeysWord s).extractLsb' 0 8 = s.subK1 ∧ (subkeysWord s).extractLsb' 8 8 = s.subK2 ∧
    (subkeysWord s).extractLsb' 16 16 = 0#16 := by
  simp (disch := decide) only [subkeysWord, BitVec.extractLsb'_append_eq_of_le, BitVec.extractLsb'_append_eq_of_add_le]
  simp

/-- Settles O44: the host and the search's agents keep DOUT and SUBKEYS, and the command unit writes them by the case of the command in
flight. -/
theorem onlyCompletionsWriteDoutAndSubkeys : Obligations.OnlyCompletionsWriteDoutAndSubkeys := by
  refine ⟨fun s => ⟨rfl, subkeysWord_fields s⟩, ?_⟩
  intro s t h
  obtain ⟨-, a, schedule, draws, ht, hagent⟩ := step_cases h
  rw [takeTurn_agent hagent]
  cases a with
  | host =>
    have hkeeps := hostTurn_keeps ht
    exact .inr ⟨.inl hkeeps.dout, .inl ⟨hkeeps.subK1, hkeeps.subK2⟩⟩
  | commandUnit =>
    rw [← Host.Outcome.next.inj ht]
    right
    rcases commandUnitTurn_cases { s with schedule := schedule, draws := draws } with
      hturn | ⟨ho, hturn⟩ | ⟨ho, hturn⟩ | ⟨ho, hturn⟩ | ⟨-, -, hturn⟩ <;> rw [hturn]
    · exact ⟨.inl rfl, .inl ⟨rfl, rfl⟩⟩
    · exact ⟨.inl rfl, .inr ⟨rfl, rfl, rfl, .inl ho, rfl⟩⟩
    · exact ⟨.inr ⟨rfl, rfl, rfl, .inl ⟨ho, rfl⟩⟩, .inr ⟨rfl, rfl, rfl, .inr (.inl ho), rfl⟩⟩
    · exact ⟨.inr ⟨rfl, rfl, rfl, .inr ⟨ho, rfl⟩⟩, .inr ⟨rfl, rfl, rfl, .inr (.inr ho), rfl⟩⟩
    · exact ⟨.inl rfl, .inl ⟨rfl, rfl⟩⟩
  | dispatcher j =>
    obtain ⟨lanes, nextKey, hframe⟩ := dispatcherTurn_frame j { s with schedule := schedule, draws := draws }
    rw [← Host.Outcome.next.inj ht, hframe]
    exact .inr ⟨.inl rfl, .inl ⟨rfl, rfl⟩⟩
  | lane j =>
    obtain ⟨evaluated, lanes, sink, count, map, hframe⟩ :=
      laneTurn_frame j { s with schedule := schedule, draws := draws }
    rw [← Host.Outcome.next.inj ht, hframe]
    exact .inr ⟨.inl rfl, .inl ⟨rfl, rfl⟩⟩
  | clock =>
    obtain ⟨time, hframe⟩ := clockTurn_frame { s with schedule := schedule, draws := draws }
    rw [← Host.Outcome.next.inj ht, hframe]
    exact .inr ⟨.inl rfl, .inl ⟨rfl, rfl⟩⟩
  | platform =>
    rw [← Host.Outcome.next.inj ht]
    exact .inl ⟨rfl, rfl, rfl, rfl⟩

/-! ## The search's registers (rules R41 to R48) -/

/-- There are at most as many results as keys (rules R45, R57). -/
theorem Inv.count_le {s : State} (h : Inv s) : s.count ≤ 1024 := by
  rw [h.spec.countIsOnes, mapOnes]
  exact List.countP_le_length.trans_eq List.length_range

/-- The fields of PROGRESS (rule R41). -/
theorem progressWord_fields (s : State) :
    (progressWord s).extractLsb' 0 11 = BitVec.ofNat 11 s.nextKey ∧ (progressWord s).extractLsb' 11 5 = 0#5 ∧
    (progressWord s).extractLsb' 16 11 = BitVec.ofNat 11 s.evaluated ∧ (progressWord s).extractLsb' 27 5 = 0#5 := by
  simp (disch := decide) only [progressWord, BitVec.extractLsb'_append_eq_of_le, BitVec.extractLsb'_append_eq_of_add_le]
  simp

theorem resCountWord_toNat (s : State) : (resCountWord s).toNat = s.count % 2 ^ 11 := by
  simp only [resCountWord, toNat_append_eq_add, BitVec.toNat_ofNat]
  omega

theorem toNat_ofNat_counter {n : Nat} (h : n ≤ 1024) : (BitVec.ofNat 11 n).toNat = n := by
  rw [BitVec.toNat_ofNat, Nat.mod_eq_of_lt (by omega)]

/-- Settles O53: the counters are at most 1024 and fit their 11-bit fields. -/
theorem progressAndCountReadTheCounters : Obligations.ProgressAndCountReadTheCounters := by
  refine ⟨fun _ => rfl, fun s h => ?_⟩
  have hnext := h.nextKeyBound
  have heval : s.evaluated ≤ 1024 := by have := h.allSplit; omega
  have hcount := h.count_le
  obtain ⟨hdispatched, hlow, hevaluated, hhigh⟩ := progressWord_fields s
  refine ⟨(congrArg BitVec.toNat hdispatched).trans (toNat_ofNat_counter hnext), hlow,
    (congrArg BitVec.toNat hevaluated).trans (toNat_ofNat_counter heval), hhigh, ?_⟩
  exact (resCountWord_toNat s).trans (Nat.mod_eq_of_lt (by omega))

/-- The entry RES_INDEX selects where VALID (rule R44). -/
theorem selectedEntry_of_valid {s : State} (h : Inv s) (ho : s.op = none) (hi : s.resIndex.toNat < s.count) :
    ∃ e, s.sink[s.resIndex.toNat]? = some e ∧ selectedEntry s = some e := by
  have hlt : s.resIndex.toNat < s.sink.length := h.countIsLength ▸ hi
  have he := List.getElem?_eq_getElem hlt
  exact ⟨_, he, (if_pos ⟨(busy_eq_false_iff s).mpr ho, hi⟩).trans he⟩

theorem selectedEntry_of_not_valid {s : State} (h : s.op ≠ none ∨ s.count ≤ s.resIndex.toNat) :
    selectedEntry s = none := by
  refine if_neg fun ⟨hidle, hi⟩ => ?_
  rcases h with ho | hle
  · exact ho ((busy_eq_false_iff s).mp hidle)
  · omega

/-- RES_KEY where an entry is selected: VALID, 21 zeros and the key (rule R44). -/
theorem resKeyWord_of_selected {s : State} {e : SinkEntry} (h : selectedEntry s = some e) :
    (resKeyWord s).getLsbD 31 = true ∧ (resKeyWord s).extractLsb' 10 21 = 0#21 ∧
    (resKeyWord s).extractLsb' 0 10 = e.key := by
  simp (disch := decide) only [resKeyWord, h, BitVec.getLsbD_append, BitVec.extractLsb'_append_eq_of_le,
    BitVec.extractLsb'_append_eq_of_add_le]
  simp

/-- Settles O51: RES_KEY and RES_TIME read the selected entry, if there is one. -/
theorem selectedResultReads : Obligations.SelectedResultReads := by
  intro s h
  constructor
  · intro ho hi
    obtain ⟨e, he, hsel⟩ := selectedEntry_of_valid h ho hi
    obtain ⟨hvalid, hzero, hkey⟩ := resKeyWord_of_selected hsel
    have htime : resTimeWord s = e.time := by rw [resTimeWord, hsel]
    exact ⟨e, he, hvalid, hzero, hkey, htime⟩
  · intro hno
    have hsel := selectedEntry_of_not_valid hno
    have hkey : resKeyWord s = 0#32 := by rw [resKeyWord, hsel]
    have htime : resTimeWord s = 0#32 := by rw [resTimeWord, hsel]
    exact ⟨hkey, htime⟩

theorem matchMapWord_of_busy {s : State} (h : s.op ≠ none) (j : Fin 32) : matchMapWord s j = 0#32 :=
  if_pos ((busy_iff s).mpr h)

/-- While idle, bit `b` of MATCH_MAPj is bit `32*j + b` of MAP (rule R48). -/
theorem matchMapWord_getLsbD {s : State} (h : s.op = none) (j : Fin 32) {b : Nat} (hb : b < 32) :
    (matchMapWord s j).getLsbD b = s.map.getLsbD (32 * j.val + b) := by
  simp [matchMapWord, (busy_eq_false_iff s).mpr h, hb]

/-- Settles O52: the offset is MATCH_MAPj's, and MAP is the set of the keys in the sink. -/
theorem matchMapIsTheSinkWhenIdle : Obligations.MatchMapIsTheSinkWhenIdle := by
  intro s j h hj
  have hread : readWindow s (0x100 + 4 * j) = matchMapWord s ⟨j, hj⟩ := readWindow_regOffset s (.matchMap ⟨j, hj⟩)
  rw [hread]
  refine ⟨fun ho b hb => ?_, fun ho => matchMapWord_of_busy ho _, fun v => ?_⟩
  · have hbit := matchMapWord_getLsbD ho ⟨j, hj⟩ hb
    have hkey : (BitVec.ofNat 10 (32 * j + b)).toNat = 32 * j + b := seqOf_toNat (by omega)
    have hsink := h.mapIsSink (BitVec.ofNat 10 (32 * j + b))
    rw [hkey] at hsink
    exact ⟨hbit, hbit ▸ hsink⟩
  · exact memWrite_regOffset (r := .matchMap ⟨j, hj⟩) nofun v s

/-! ## CTRL and STATUS (rules R33, R35, R350) -/

/-- The fields of STATUS (rule R35). -/
theorem statusWord_fields (s : State) :
    (statusWord s).extractLsb' 4 4 = s.errcode ∧ (statusWord s).extractLsb' 8 4 = s.lastop ∧
    (statusWord s).extractLsb' 13 19 = 0#19 := by
  simp (disch := decide) only [statusWord, BitVec.extractLsb'_append_eq_of_le, BitVec.extractLsb'_append_eq_of_add_le]
  simp

/-- The flags of STATUS (rule R35). -/
theorem statusWord_flags (s : State) :
    (statusWord s).getLsbD 0 = s.busy ∧ (statusWord s).getLsbD 1 = s.done ∧ (statusWord s).getLsbD 2 = s.err ∧
    (statusWord s).getLsbD 3 = s.aborted ∧ (statusWord s).getLsbD 12 = irq s := by
  simp only [statusWord, BitVec.getLsbD_append]
  simp

/-- Settles O46: the flags and the fields of the word that STATUS reads. -/
theorem statusReadsItsFields : Obligations.StatusReadsItsFields := by
  intro s w
  obtain ⟨hbusy, hdone, herr, haborted, hirq⟩ := statusWord_flags s
  obtain ⟨hcode, hlast, hzero⟩ := statusWord_fields s
  exact ⟨hbusy, hdone, herr, haborted, hcode, hlast, hirq, hzero⟩

/-- A write to STATUS, by the two bits it tests (rule R35). -/
theorem writeStatus_eq (v : Word) (s : State) :
    writeStatus v s =
      { s with
        done := s.done && !v.getLsbD 1
        err := s.err && !v.getLsbD 2
        errcode := if v.getLsbD 2 then 0#4 else s.errcode } := by
  unfold writeStatus
  cases v.getLsbD 1 <;> cases v.getLsbD 2 <;> simp [clearDone, clearError]

/-- Settles O47: the offset is that of STATUS. -/
theorem statusWriteClearsWhereOneIsWritten : Obligations.StatusWriteClearsWhereOneIsWritten := fun v s =>
  (memWrite_regOffset (r := .status) nofun v s).trans (congrArg Host.Outcome.next (writeStatus_eq v s))

/-- CTRL after a write reads the two bits it keeps (rule R33). -/
theorem ctrlWord_writeCtrl (v : Word) (s : State) : ctrlWord (writeCtrl v s) = v &&& 3#32 := by
  rw [show v &&& 3#32 = (v.extractLsb' 0 2).setWidth 32 from and_low_mask 2 v]
  apply BitVec.eq_of_getLsbD_eq
  intro i hi
  simp only [ctrlWord, BitVec.getLsbD_append]
  rcases i with _ | _ | i <;> simp

/-- Settles O48: the write takes effect in one access, and CTRL reads the two bits it keeps. -/
theorem ctrlWriteAppliesAtOnce : Obligations.CtrlWriteAppliesAtOnce :=
  fun v s => ⟨writeCtrl v s, rfl, rfl, ctrlWord_writeCtrl v s, rfl⟩

/-! ## The registers the host writes (rules R36, R37, R38, R43) -/

/-- Settles O49: each is the register's write and read, and RES_INDEX is masked to its field. -/
theorem operandRegistersReadBack : Obligations.OperandRegistersReadBack := by
  intro v s
  have hindex : (v.extractLsb' 0 10).setWidth 32 = v &&& 0x3FF#32 := (and_low_mask 10 v).symm
  exact ⟨⟨rfl, rfl⟩, ⟨rfl, rfl⟩, ⟨rfl, rfl⟩, _, rfl, rfl, hindex⟩

end Sys2Proof.Machine
end

section
/-!
The obligations of the family of 20_memory.md: the completion of a cipher command as one step (rules R79, R148), the reads and POLLs of
the host (rules R76, R108), and the accesses outside the window (rules R70, R71).
-/

namespace Sys2Proof.Machine

/-! ## The completion step (rules R79, R148) -/

theorem commandUnitTurn_of_keysched {s : State} (ho : s.op = some .keysched) : commandUnitTurn s = completeKeysched s := by
  simp only [commandUnitTurn, ho]

theorem commandUnitTurn_of_encrypt {s : State} (ho : s.op = some .encrypt) : commandUnitTurn s = completeEncrypt s := by
  simp only [commandUnitTurn, ho]

theorem commandUnitTurn_of_decrypt {s : State} (ho : s.op = some .decrypt) : commandUnitTurn s = completeDecrypt s := by
  simp only [commandUnitTurn, ho]

/-- The step where the schedule names the command unit and a turn of it is known. -/
theorem step_of_commandUnit {s t : State} {rest : List Agent} (hc : s.cfg.wellFormed = true)
    (hs : s.schedule = .commandUnit :: rest) (ht : commandUnitTurn { s with schedule := rest } = t) : step s = .next t :=
  (step_of_schedule hc hs).trans (congrArg Host.Outcome.next ht)

/-- Settles O20: the command unit's turn is the completion of the command in flight, whose effects are one update of the state. -/
theorem completionIsOneStep : Obligations.CompletionIsOneStep := by
  intro s rest hc hs
  refine ⟨fun ho => ?keysched, fun ho => ?encrypt, fun ho => ?decrypt⟩
  case keysched => exact step_of_commandUnit hc hs (commandUnitTurn_of_keysched ho)
  case encrypt => exact step_of_commandUnit hc hs (commandUnitTurn_of_encrypt ho)
  case decrypt => exact step_of_commandUnit hc hs (commandUnitTurn_of_decrypt ho)

/-! ## The host's accesses (rules R70, R71, R74, R76, R108) -/

/-- The step where the schedule names the host: the effect of the transaction at the head of its script. -/
theorem step_of_transaction {s : State} {op : HostOp} {rest : List HostOp} {sched : List Agent} (hc : s.cfg.wellFormed = true)
    (hs : s.schedule = .host :: sched) (hop : s.script = op :: rest) :
    step s = transact op { s with schedule := sched, script := rest } := by
  rw [step_of_schedule hc hs]
  simp only [agentTurn, hostTurn, hop]

theorem offsetWellFormed_of_aligned {off : Nat} (hlt : off < 512) (ha : off % 4 = 0) : offsetWellFormed off = true := by
  simp [offsetWellFormed, hlt, ha]

/-- Outside the window there is no access, whatever its width and effect (rules R70, R71, log 9). -/
theorem admitted_outside {off : Nat} (h : 512 ≤ off) (width : Nat) (o : Host.Outcome State Fault Refusal) :
    admitted off width o = .refused (.outsideWindow off) := if_pos h

/-- An admitted read records the value read, and has no other effect (rule R76). -/
theorem transact_read {off : Nat} (h : offsetWellFormed off = true) (s : State) :
    transact (.read off 4) s = .next { s with record := s.record ++ [⟨off, readWindow s off⟩] } :=
  admitted_of_wellFormed h _

/-- An admitted POLL whose read matches is over (rule R108). -/
theorem transact_poll_of_match {off : Nat} {mask value : Word} {s : State} (h : offsetWellFormed off = true)
    (hm : readWindow s off &&& mask = value) : transact (.poll off mask value) s = .next s := by
  rw [transact, admitted_of_wellFormed h, if_pos hm]

/-- An admitted POLL whose read does not match is put back into the script (rule R108, log 7). -/
theorem transact_poll_of_mismatch {off : Nat} {mask value : Word} {s : State} (h : offsetWellFormed off = true)
    (hm : readWindow s off &&& mask ≠ value) :
    transact (.poll off mask value) s = .next { s with script := .poll off mask value :: s.script } := by
  rw [transact, admitted_of_wellFormed h, if_neg hm]

/-- Settles O54: the transaction reads the window, which does not depend on the script or the schedule; a POLL that does not match
puts back the script it was taken from. -/
theorem readsHaveNoSideEffect : Obligations.ReadsHaveNoSideEffect := by
  intro s off rest sched hc hs hlt ha
  have hoff : offsetWellFormed off = true := offsetWellFormed_of_aligned hlt ha
  refine ⟨fun hread => ?read, fun mask value hpoll => ⟨fun hm => ?pollEnds, fun hm => ?pollStays⟩⟩
  case read => exact (step_of_transaction hc hs hread).trans (transact_read hoff _)
  case pollEnds => exact (step_of_transaction hc hs hpoll).trans (transact_poll_of_match hoff hm)
  case pollStays =>
    calc
      step s = transact (.poll off mask value) { s with schedule := sched, script := rest } :=
        step_of_transaction hc hs hpoll
      _ = .next { s with schedule := sched, script := .poll off mask value :: rest } := transact_poll_of_mismatch hoff hm
      _ = .next { s with schedule := sched } := by rw [← hpoll]

/-- Settles O56: the bus's check comes before the effect of a read, a write or a POLL. -/
theorem outsideTheWindowIsRefused : Obligations.OutsideTheWindowIsRefused := by
  intro s off width v mask rest sched hc hs hout hop
  rcases hop with hread | hwrite | hpoll
  · exact (step_of_transaction hc hs hread).trans (admitted_outside hout width _)
  · exact (step_of_transaction hc hs hwrite).trans (admitted_outside hout width _)
  · exact (step_of_transaction hc hs hpoll).trans (admitted_outside hout 4 _)

end Sys2Proof.Machine
end

section
/-!
The obligations of the family of 30_encoding.md: the decoder and the encoder (rules R100 to R106), the rejection of an illegal word
(rules R102, R105), and what a host script does with the values it has read (rules R107, R110, R298).
-/

namespace Sys2Proof.Machine

/-! ## The decoder and the encoder (rules R100 to R106) -/

@[simp] theorem rsvzField_append (rsvz : BitVec 28) (op : BitVec 4) : rsvzField (rsvz ++ op) = rsvz := by
  simp (disch := decide) only [rsvzField, BitVec.extractLsb'_append_eq_of_le]
  simp

@[simp] theorem opField_append (rsvz : BitVec 28) (op : BitVec 4) : opField (rsvz ++ op) = op := by
  simp (disch := decide) only [opField, BitVec.extractLsb'_append_eq_of_add_le]
  simp

/-- A command word is determined by its two fields (rule R100). -/
theorem eq_append_iff_fields (w : Word) (rsvz : BitVec 28) (op : BitVec 4) :
    w = rsvz ++ op ↔ rsvzField w = rsvz ∧ opField w = op := by
  constructor
  · rintro rfl
    exact ⟨rsvzField_append rsvz op, opField_append rsvz op⟩
  · rintro ⟨rfl, rfl⟩
    exact (command_word_split w).symm

/-- A reserved bit decides before the opcode is looked at (rule R102). -/
theorem decode_of_reservedBits {w : Word} (h : rsvzField w ≠ 0#28) : decode w = .error .reservedBits := if_pos h

theorem decode_of_rsvz_zero {w : Word} (h : rsvzField w = 0#28) : decode w = decodeOp (opField w) :=
  if_neg (not_not_intro h)

/-- The opcode map undoes `Instr.opcode` and gives each command one opcode (rule R104). -/
theorem decodeOp_eq_ok_iff (op : BitVec 4) (i : Instr) : decodeOp op = .ok i ↔ op = i.opcode := by
  constructor
  · intro h
    unfold decodeOp at h
    split_ifs at h <;> (obtain rfl := Except.ok.inj h; assumption)
  · rintro rfl
    cases i <;> rfl

/-- Opcodes 6 to 15 are reserved (rule R105). -/
theorem decodeOp_of_reserved {op : BitVec 4} (h : 6 ≤ op.toNat) : decodeOp op = .error .reservedOpcode := by
  have hne (n : Nat) (hn : n < 6) : op ≠ BitVec.ofNat 4 n := by
    rintro rfl
    rw [BitVec.toNat_ofNat] at h
    omega
  simp (disch := decide) only [decodeOp, hne, if_false]

theorem decode_of_reservedOpcode {w : Word} (hz : rsvzField w = 0#28) (hop : 6 ≤ (opField w).toNat) :
    decode w = .error .reservedOpcode := (decode_of_rsvz_zero hz).trans (decodeOp_of_reserved hop)

/-- The words that decode to a command are those with RSVZ zero and the command's opcode (rules R102, R104). -/
theorem decode_eq_ok_iff_fields (w : Word) (i : Instr) :
    decode w = .ok i ↔ rsvzField w = 0#28 ∧ opField w = i.opcode := by
  by_cases hz : rsvzField w = 0#28
  · simp [decode_of_rsvz_zero hz, decodeOp_eq_ok_iff, hz]
  · simp [decode_of_reservedBits hz, hz]

/-- The decoder is the inverse of the encoder (rule R106). -/
theorem decode_eq_ok_iff (w : Word) (i : Instr) : decode w = .ok i ↔ w = encode i :=
  calc
    decode w = .ok i ↔ rsvzField w = 0#28 ∧ opField w = i.opcode := decode_eq_ok_iff_fields w i
    _ ↔ w = encode i := (eq_append_iff_fields w 0#28 i.opcode).symm

theorem decode_encode (i : Instr) : decode (encode i) = .ok i := (decode_eq_ok_iff _ i).mpr rfl

/-- Settles O6: RSVZ decides first, then the opcode; a word is its two fields, so the opcode map's inverse gives the decoder's. -/
theorem decoderIsTheInverseOfTheEncoder : Obligations.DecoderIsTheInverseOfTheEncoder :=
  ⟨fun _ hreserved => decode_of_reservedBits hreserved, fun _ hz hop => decode_of_reservedOpcode hz hop, decode_eq_ok_iff⟩

/-- Settles O5: the six words are the encodings of the commands. -/
theorem commandWordsDecode : Obligations.CommandWordsDecode := by
  refine ⟨decode_encode .nop, decode_encode .keysched, decode_encode .encrypt, decode_encode .decrypt, decode_encode .search,
    decode_encode .abort, fun op hop => ?_, decode_of_reservedBits (by decide), decode_of_reservedBits (by decide)⟩
  exact decode_of_reservedOpcode (rsvzField_append 0#28 op) (by rwa [opField_append])

/-! ## The rejection of an illegal word (rules R102, R105, R141) -/

theorem issue_of_decode_error {w : Word} {e : DecodeError} (h : decode w = .error e) (s : State) :
    issue w s = .next (raiseCmdError .illegalCmd s) := by
  simp only [issue, h]

/-- Settles O9: each of the two causes makes `decode` answer an error, and the issue of such a word is the rejection. -/
theorem illegalWordIsRejected : Obligations.IllegalWordIsRejected := by
  intro w s hill
  by_cases hz : rsvzField w = 0#28
  · have hop : 6 ≤ (opField w).toNat := hill.resolve_left (not_not_intro hz)
    exact issue_of_decode_error (decode_of_reservedOpcode hz hop) s
  · exact issue_of_decode_error (decode_of_reservedBits hz) s

/-! ## The writes of a recorded value (rule R107) -/

/-- A step of the host at a copy is the step at the write of the recorded value. -/
theorem step_copy {s : State} {off src : Nat} {v : Word} {rest : List HostOp} {sched : List Agent}
    (hc : s.cfg.wellFormed = true) (hs : s.schedule = .host :: sched) (hop : s.script = .copy off src :: rest)
    (hv : recorded src s.record = some v) : step s = step { s with script := .write off 4 v :: rest } := by
  calc
    step s = hostTurn { s with schedule := sched } := step_of_schedule hc hs
    _ = hostTurn { s with schedule := sched, script := .write off 4 v :: rest } := hostTurn_copy hop hv
    _ = step { s with script := .write off 4 v :: rest } :=
      (step_of_schedule (s := { s with script := .write off 4 v :: rest }) hc hs).symm

/-- A copy of a register that no RD has read is refused (log 17). -/
theorem step_copy_of_unread {s : State} {off src : Nat} {rest : List HostOp} {sched : List Agent}
    (hc : s.cfg.wellFormed = true) (hs : s.schedule = .host :: sched) (hop : s.script = .copy off src :: rest)
    (hv : recorded src s.record = none) : step s = .refused (.unreadValue src) :=
  (step_of_transaction hc hs hop).trans (withRecorded_none hv _)

/-! ## The loop over the results (rules R110, R298) -/

/-- A run of `m` steps and then one of `n` steps. -/
theorem run_add_of_run {m : Nat} (n : Nat) {s t : State} (h : core.run m s = .next t) :
    core.run (m + n) s = core.run n t := by
  induction m generalizing s with
  | zero => obtain rfl := Host.Outcome.next.inj h; rw [Nat.zero_add]
  | succ m ih =>
    rw [Nat.add_right_comm]
    simp only [Host.Core.run] at h ⊢
    cases hs : core.step s with
    | next u =>
      simp only [hs] at h ⊢
      exact ih h
    | fault r => simp [hs] at h
    | refused r => simp [hs] at h

/-- The state in which RES_INDEX selects result `i` (rule R43). -/
def selectResult (i : Nat) (s : State) : State := writeReg .resIndex (BitVec.ofNat 32 i) s

/-- What one round of the loop records: RES_KEY and RES_TIME of result `i`. -/
def resultReadings (s : State) (i : Nat) : List Reading :=
  [⟨regOffset .resKey, resKeyWord (selectResult i s)⟩, ⟨regOffset .resTime, resTimeWord (selectResult i s)⟩]

/-- What `n` rounds of the loop record. -/
def readOutReadings (s : State) (n : Nat) : List Reading := (List.range n).flatMap (resultReadings s)

theorem readOutReadings_succ (s : State) (n : Nat) :
    readOutReadings s (n + 1) = readOutReadings s n ++ resultReadings s n := by
  simp [readOutReadings, List.range_succ]

/-- The host's step at an admitted read (rule R107). -/
theorem step_read {s : State} {off : Nat} {rest : List HostOp} {sched : List Agent} (hc : s.cfg.wellFormed = true)
    (hs : s.schedule = .host :: sched) (hop : s.script = .read off 4 :: rest) (hoff : offsetWellFormed off = true) :
    step s = .next { s with schedule := sched, script := rest, record := s.record ++ [⟨off, readWindow s off⟩] } :=
  (step_of_transaction hc hs hop).trans (transact_read hoff _)

/-- One round of the loop: a write to RES_INDEX and two reads (rule R110). -/
theorem run_readResultOps {s : State} {i : Nat} {rest : List HostOp} {sched : List Agent} (hc : s.cfg.wellFormed = true)
    (hs : s.schedule = List.replicate 3 .host ++ sched) (hop : s.script = readResultOps i ++ rest) :
    core.run 3 s = .next { selectResult i s with
      script := rest, schedule := sched, record := s.record ++ resultReadings s i } := by
  let selected : State := { selectResult i s with
    script := .read (regOffset .resKey) 4 :: .read (regOffset .resTime) 4 :: rest
    schedule := .host :: .host :: sched }
  have hwrite : step s = .next selected := (step_of_transaction hc hs hop).trans (admitted_of_wellFormed (by decide) _)
  have hrecord : s.record ++ resultReadings s i =
      s.record ++ [⟨regOffset .resKey, resKeyWord (selectResult i s)⟩] ++
        [⟨regOffset .resTime, resTimeWord (selectResult i s)⟩] := by
    simp [resultReadings]
  rw [hrecord]
  calc
    core.run 3 s = core.run 2 selected := run_succ_of_step 2 hwrite
    _ = core.run 1 { selected with
          script := .read (regOffset .resTime) 4 :: rest
          schedule := .host :: sched
          record := s.record ++ [⟨regOffset .resKey, resKeyWord (selectResult i s)⟩] } :=
      run_succ_of_step 1 (step_read hc rfl rfl (by decide))
    _ = .next _ := run_succ_of_step 0 (step_read hc rfl rfl (by decide))

/-- The rounds `0 .. n-1` of the loop: they record what each result reads, and change nothing of the block but RES_INDEX. -/
theorem run_readOutOps {s : State} (hc : s.cfg.wellFormed = true) (n : Nat) (rest : List HostOp) (sched : List Agent) :
    ∃ resIndex,
      core.run (3 * n) { s with script := readOutOps n ++ rest, schedule := List.replicate (3 * n) .host ++ sched } =
        .next { s with
          script := rest, schedule := sched, record := s.record ++ readOutReadings s n, resIndex := resIndex } := by
  induction n generalizing rest sched with
  | zero => exact ⟨s.resIndex, by simp [Host.Core.run, readOutReadings]⟩
  | succ n ih =>
    obtain ⟨resIndex, hrun⟩ := ih (readResultOps n ++ rest) (List.replicate 3 .host ++ sched)
    rw [← List.append_assoc, ← readOutOps_succ, ← List.append_assoc, ← List.replicate_add] at hrun
    have hround := run_readResultOps (s := { s with
      script := readResultOps n ++ rest
      schedule := List.replicate 3 .host ++ sched
      record := s.record ++ readOutReadings s n
      resIndex := resIndex }) hc rfl rfl
    rw [readOutReadings_succ, ← List.append_assoc]
    exact ⟨_, (run_add_of_run 3 hrun).trans hround⟩

/-- While the block is idle, selecting result `i` makes RES_KEY VALID and RES_KEY and RES_TIME read the sink's entry `i` (rules R44,
R46). -/
theorem selectResult_reads {s : State} (h : Inv s) (ho : s.op = none) {i : Nat} (hi : i < s.count) :
    ∃ e, s.sink[i]? = some e ∧ (resKeyWord (selectResult i s)).getLsbD 31 = true ∧
      (resKeyWord (selectResult i s)).extractLsb' 0 10 = e.key ∧ resTimeWord (selectResult i s) = e.time := by
  have hsmall : i < 1024 := Nat.lt_of_lt_of_le hi h.count_le
  have hindex : (selectResult i s).resIndex.toNat = i := by simp [selectResult, writeReg]; omega
  have hinv : Inv (selectResult i s) := h.writeReg .resIndex _
  have hselected : (selectResult i s).resIndex.toNat < (selectResult i s).count := hindex.trans_lt hi
  obtain ⟨hreads, -⟩ := selectedResultReads _ hinv
  obtain ⟨e, he, hvalid, -, hkey, htime⟩ := hreads ho hselected
  rw [hindex] at he
  exact ⟨e, he, hvalid, hkey, htime⟩

/-- Where each round reads a register once, the loop's readings of it are one for each result, in order. -/
theorem readingsOf_readOutReadings {off : Nat} {s : State} {read : State → Word}
    (h : ∀ i, readingsOf off (resultReadings s i) = [read (selectResult i s)]) (n : Nat) :
    readingsOf off (readOutReadings s n) = (List.range n).map fun i => read (selectResult i s) := by
  induction n with
  | zero => rfl
  | succ n ih => rw [readOutReadings_succ, readingsOf_append, ih, h, List.range_succ, List.map_append, List.map_singleton]

theorem readingsOf_resKey_readOutReadings (s : State) (n : Nat) :
    readingsOf (regOffset .resKey) (readOutReadings s n) = (List.range n).map fun i => resKeyWord (selectResult i s) :=
  readingsOf_readOutReadings (fun _ => rfl) n

theorem readingsOf_resTime_readOutReadings (s : State) (n : Nat) :
    readingsOf (regOffset .resTime) (readOutReadings s n) = (List.range n).map fun i => resTimeWord (selectResult i s) :=
  readingsOf_readOutReadings (fun _ => rfl) n

/-- What the whole loop reads of an idle block is its sink (rule R298). -/
theorem searchResults_readOutReadings {s : State} (h : Inv s) (ho : s.op = none) :
    searchResults (readOutReadings s s.count) = s.sink := by
  rw [searchResults, readingsOf_resKey_readOutReadings, readingsOf_resTime_readOutReadings]
  refine List.ext_getElem (by simp [h.countIsLength]) fun i hi _ => ?_
  have hlt : i < s.count := by simpa using hi
  obtain ⟨e, he, -, hkey, htime⟩ := selectResult_reads h ho hlt
  obtain ⟨_, rfl⟩ := List.getElem?_eq_some_iff.mp he
  simp [hkey, htime]

/-- Every RES_KEY that the loop reads of an idle block is VALID (rule R44). -/
theorem readOutReadings_valid {s : State} (h : Inv s) (ho : s.op = none) :
    ∀ w ∈ readingsOf (regOffset .resKey) (readOutReadings s s.count), w.getLsbD 31 = true := by
  intro w hw
  rw [readingsOf_resKey_readOutReadings] at hw
  obtain ⟨i, hi, rfl⟩ := List.mem_map.mp hw
  obtain ⟨e, -, hvalid, -⟩ := selectResult_reads h ho (List.mem_range.mp hi)
  exact hvalid

/-- A recorded RES_COUNT bounds the loop by COUNT, and the run is the bound's turn and then the rounds. -/
theorem run_readResults {s : State} {rest : List HostOp} (h : Inv s) (hop : s.script = .readResults :: rest)
    (hn : recorded 0x02C s.record = some (resCountWord s)) :
    ∃ resIndex,
      core.run (1 + 3 * s.count) { s with schedule := List.replicate (1 + 3 * s.count) .host ++ s.schedule } =
        .next { s with script := rest, record := s.record ++ readOutReadings s s.count, resIndex := resIndex } := by
  have hcount : (resCountWord s).toNat = s.count := by
    rw [resCountWord_toNat]
    exact Nat.mod_eq_of_lt (by have := h.count_le; omega)
  obtain ⟨resIndex, hrun⟩ := run_readOutOps h.config s.count rest s.schedule
  have hbound := hostTurn_readResults (s := { s with schedule := List.replicate (3 * s.count) .host ++ s.schedule }) hop hn
  have hstep := (step_of_schedule (s := { s with
    schedule := .host :: (List.replicate (3 * s.count) .host ++ s.schedule) }) h.config rfl).trans hbound
  rw [hcount] at hstep
  rw [Nat.add_comm]
  exact ⟨resIndex, (run_succ_of_step _ hstep).trans hrun⟩

/-- Settles O59: a copy's turn looks up the latest recorded value; the loop's rounds select each result in turn, and what they read is
the sink. -/
theorem hostUsesTheValuesItHasRead : Obligations.HostUsesTheValuesItHasRead := by
  constructor
  · intro s off src rest sched hc hs hop
    constructor
    · intro before after v hrecord hafter
      exact step_copy hc hs hop (hrecord ▸ recorded_latest hafter)
    · intro hunread
      exact step_copy_of_unread hc hs hop (recorded_eq_none hunread)
  · intro s rest h ho hop hn
    obtain ⟨resIndex, hrun⟩ := run_readResults h hop hn
    exact ⟨readOutReadings s s.count, resIndex, searchResults_readOutReadings h ho, readOutReadings_valid h ho, hrun⟩

end Sys2Proof.Machine
end

section
/-!
The obligations of the family of 40_command_unit.md: the issue of a command word and its rejections (rules R140 to R146), what the
commands do (rules R143, R148, R150, R182, R224, R226, R276), and that a command in flight neither hangs nor fails (rules R342, R394).
-/

namespace Sys2Proof.Machine

/-! ## Rejection (rules R146, R355) -/

/-- A rejection shows in no register of the window but STATUS (rule R146). -/
theorem readReg_raiseCmdError (e : CmdError) (s : State) {r : Reg} (hr : r ≠ .status) :
    readReg (raiseCmdError e s) r = readReg s r := by
  cases r
  case status => exact absurd rfl hr
  all_goals rfl

/-- After a rejection `irq` is raised where ERR_IE is set, and otherwise as it was (rules R350, R355). -/
theorem irq_raiseCmdError (e : CmdError) (s : State) : irq (raiseCmdError e s) = ((s.doneIe && s.done) || s.errIe) := by
  simp [irq]

/-- Settles O13: every aligned offset but 0x010 is a register's other than STATUS or holds no register. -/
theorem rejectionChangesOnlyErrAndErrcode : Obligations.RejectionChangesOnlyErrAndErrcode := by
  intro e s
  refine ⟨rfl, irq_raiseCmdError e s, fun off _ ha hstatus => ?_⟩
  cases hreg : regAt off with
  | none => rw [readWindow_of_regAt_none _ hreg, readWindow_of_regAt_none _ hreg]
  | some r =>
    obtain rfl := regOffset_of_regAt ha hreg
    have hr : r ≠ .status := by rintro rfl; exact hstatus rfl
    rw [readWindow_regOffset, readWindow_regOffset, readReg_raiseCmdError e s hr]

/-! ## When a worker's step is enabled (rules R148, R278, R280, R286) -/

theorem joinEnabled_iff (s : State) :
    joinEnabled s = true ↔ s.op = some .search ∧ (∀ l ∈ s.lanes, l = .idle) ∧ (s.nextKey = 1024 ∨ s.cancel = true) := by
  simp [joinEnabled, and_assoc]

theorem dispatchEnabled_iff (j : Nat) (s : State) :
    dispatchEnabled j s = true ↔
      s.op = some .search ∧ s.cancel = false ∧ s.nextKey < 1024 ∧ s.lanes[j]? = some .idle := by
  simp [dispatchEnabled, and_assoc]

theorem commandUnit_enabled_of_cipher {s : State} {c : WorkCmd} (ho : s.op = some c) (hc : c ≠ .search) :
    agentEnabled .commandUnit s = true := by
  cases c
  case search => exact absurd rfl hc
  all_goals simp only [agentEnabled, ho]

theorem commandUnit_enabled_of_join {s : State} (hj : joinEnabled s = true) : agentEnabled .commandUnit s = true := by
  obtain ⟨ho, -⟩ := (joinEnabled_iff s).mp hj
  simpa only [agentEnabled, ho] using hj

theorem lane_enabled_of_eval {s : State} {j : Nat} {k : Key} (hj : s.lanes[j]? = some (.eval k)) :
    agentEnabled (.lane j) s = true := by
  simp only [agentEnabled, hj]

/-- A lane that is not idle is enabled (rule R280). -/
theorem exists_enabled_lane {s : State} (h : ¬ ∀ l ∈ s.lanes, l = .idle) : ∃ j, agentEnabled (.lane j) s = true := by
  push Not at h
  obtain ⟨l, hl, hbusy⟩ := h
  obtain ⟨j, hj⟩ := List.mem_iff_getElem?.mp hl
  cases l with
  | idle => exact absurd rfl hbusy
  | eval k => exact ⟨j, lane_enabled_of_eval hj⟩

/-- There is a lane 0 (rules R8, R54). -/
theorem Inv.lanes_pos {s : State} (h : Inv s) : 0 < s.lanes.length := by
  rw [h.laneCount]
  exact (config_lanes h.config).1

/-- Settles O37. A cipher command can complete. In a SEARCH, a lane that holds a key can evaluate it; with every lane idle the search can
join if it is at its end, and otherwise lane 0 can be given the next key. -/
theorem busyBlockHasAnEnabledWorker : Obligations.BusyBlockHasAnEnabledWorker := by
  intro s h hbusy
  obtain ⟨c, ho⟩ := Option.ne_none_iff_exists'.mp hbusy
  by_cases hc : c = .search
  case neg => exact ⟨.commandUnit, rfl, commandUnit_enabled_of_cipher ho hc⟩
  subst hc
  by_cases hidle : ∀ l ∈ s.lanes, l = .idle
  case neg =>
    obtain ⟨j, hj⟩ := exists_enabled_lane hidle
    exact ⟨.lane j, rfl, hj⟩
  by_cases hend : s.nextKey = 1024 ∨ s.cancel = true
  case pos => exact ⟨.commandUnit, rfl, commandUnit_enabled_of_join ((joinEnabled_iff s).mpr ⟨ho, hidle, hend⟩)⟩
  obtain ⟨hkeys, hcancel⟩ := not_or.mp hend
  have hlt : s.nextKey < 1024 := Nat.lt_of_le_of_ne h.nextKeyBound hkeys
  have hlane : s.lanes[0]? = some .idle := by
    rw [List.getElem?_eq_getElem h.lanes_pos, hidle _ (List.getElem_mem _)]
  exact ⟨.dispatcher 0, rfl, (dispatchEnabled_iff 0 s).mpr ⟨ho, Bool.eq_false_of_not_eq_true hcancel, hlt, hlane⟩⟩

/-! ## Nothing fails after acceptance (rules R45, R149, R342) -/

theorem commandUnitTurn_error (s : State) :
    (commandUnitTurn s).err = s.err ∧ (commandUnitTurn s).errcode = s.errcode := by
  rcases commandUnitTurn_cases s with h | ⟨-, h⟩ | ⟨-, h⟩ | ⟨-, h⟩ | ⟨-, -, h⟩ <;> rw [h] <;> exact ⟨rfl, rfl⟩

/-- An internal agent's turn answers a next state and does not touch the error (rule R342). -/
theorem internalTurn_error {a : Agent} (hhost : a ≠ .host) (hplatform : a ≠ .platform) (s : State) :
    ∃ t, agentTurn a s = .next t ∧ t.err = s.err ∧ t.errcode = s.errcode := by
  cases a with
  | host => exact absurd rfl hhost
  | commandUnit => exact ⟨_, rfl, commandUnitTurn_error s⟩
  | dispatcher j =>
    obtain ⟨lanes, nextKey, hframe⟩ := dispatcherTurn_frame j s
    exact ⟨_, congrArg Host.Outcome.next hframe, rfl, rfl⟩
  | lane j =>
    obtain ⟨evaluated, lanes, sink, count, map, hframe⟩ := laneTurn_frame j s
    exact ⟨_, congrArg Host.Outcome.next hframe, rfl, rfl⟩
  | clock =>
    obtain ⟨time, hframe⟩ := clockTurn_frame s
    exact ⟨_, congrArg Host.Outcome.next hframe, rfl, rfl⟩
  | platform => exact absurd rfl hplatform

/-- Settles O40: the sink has COUNT entries, at most one per key, and no internal turn touches the error. -/
theorem nothingFailsAfterAcceptance : Obligations.NothingFailsAfterAcceptance := by
  intro s h
  have hsink : s.sink.length ≤ 1024 := h.countIsLength ▸ h.count_le
  exact ⟨hsink, fun _ hhost hplatform => internalTurn_error hhost hplatform s⟩

/-! ## The issue of a command word (rules R140, R141) -/

theorem issue_of_decode_ok {w : Word} {i : Instr} (h : decode w = .ok i) (s : State) : issue w s = exec i s := by
  simp only [issue, h]

/-- A host write to CMD is the issue of the word (rules R34, R140). -/
theorem transact_write_cmd (w : Word) (s : State) : transact (.write 0x00C 4 w) s = issue w s := rfl

/-- The step of a host whose next transaction writes CMD is the issue of the word written (rule R140). -/
theorem step_of_cmd_write {s : State} {w : Word} {rest : List HostOp} {sched : List Agent} (hc : s.cfg.wellFormed = true)
    (hs : s.schedule = .host :: sched) (hop : s.script = .write 0x00C 4 w :: rest) :
    step s = issue w { s with script := rest, schedule := sched } :=
  (step_of_transaction hc hs hop).trans (transact_write_cmd w _)

/-- Settles O7: the step is the issue of the word, which is `exec` or the rejection by what the decoder answers. -/
theorem stepIssuesTheDecodedCommand : Obligations.StepIssuesTheDecodedCommand := by
  intro s w rest sched hc hs hop
  have hstep := step_of_cmd_write hc hs hop
  exact ⟨fun i hi => hstep.trans (issue_of_decode_ok hi _), fun e he => hstep.trans (issue_of_decode_error he _)⟩

/-- Settles O8: the placed word is the host's next write to CMD, and using up the write and the turn gives back the state as it was. -/
theorem fetchedWordIsIssuedNext : Obligations.FetchedWordIsIssuedNext := by
  intro s nbits w hc _
  exact step_of_cmd_write (s := s.withFetchWord nbits w) hc rfl rfl

/-! ## The issue of a work command (rules R141 to R144) -/

theorem exec_work_of_busy {s : State} (ho : s.op ≠ none) (c : WorkCmd) :
    exec c.instr s = .next { s with err := true, errcode := 4#4 } := by
  rw [exec_work, issueWork_busy ho]
  rfl

theorem exec_work_of_overwide {s : State} (ho : s.op = none) {c : WorkCmd} (hw : widthsOk c s = false) :
    exec c.instr s = .next { s with err := true, errcode := 1#4 } := by
  rw [exec_work, issueWork_invalid ho hw]
  rfl

theorem exec_work_of_fits {s : State} (ho : s.op = none) {c : WorkCmd} (hw : widthsOk c s = true) :
    exec c.instr s = .next (accept c s) := by
  rw [exec_work, issueWork_accept ho hw]

/-- What a command's operand registers must meet to be accepted (rule R144). -/
theorem widthsOk_iff (c : WorkCmd) (s : State) :
    widthsOk c s = true ↔
      (c.readsKey = true → s.key.extractLsb' 10 22 = 0#22) ∧ (c.readsDin = true → s.din.extractLsb' 8 24 = 0#24) ∧
      (c.readsTarget = true → s.target.extractLsb' 8 24 = 0#24) := by
  simp only [widthsOk, Bool.and_eq_true, Bool.or_eq_true, Bool.not_eq_true', keyFits_iff, dinFits_iff, targetFits_iff,
    and_assoc, ← Bool.not_eq_true, ← imp_iff_not_or]

theorem widthsOk_of_overwide_key {c : WorkCmd} (hc : c.readsKey = true) {s : State} (h : s.key.extractLsb' 10 22 ≠ 0#22) :
    widthsOk c s = false :=
  Bool.eq_false_of_not_eq_true fun hw => h (((widthsOk_iff c s).mp hw).1 hc)

theorem widthsOk_of_overwide_din {c : WorkCmd} (hc : c.readsDin = true) {s : State} (h : s.din.extractLsb' 8 24 ≠ 0#24) :
    widthsOk c s = false :=
  Bool.eq_false_of_not_eq_true fun hw => h (((widthsOk_iff c s).mp hw).2.1 hc)

theorem widthsOk_of_overwide_target {c : WorkCmd} (hc : c.readsTarget = true) {s : State}
    (h : s.target.extractLsb' 8 24 ≠ 0#24) : widthsOk c s = false :=
  Bool.eq_false_of_not_eq_true fun hw => h (((widthsOk_iff c s).mp hw).2.2 hc)

/-- Settles O11: the check for BUSY comes before everything else a work command does. -/
theorem busyRejectsWorkCommands : Obligations.BusyRejectsWorkCommands := fun _ ho =>
  ⟨exec_work_of_busy ho .keysched, exec_work_of_busy ho .encrypt, exec_work_of_busy ho .decrypt, exec_work_of_busy ho .search⟩

/-- Settles O12: one overwide operand is enough to fail the width check of a command that reads it. -/
theorem overwideOperandsAreRejected : Obligations.OverwideOperandsAreRejected := by
  intro s ho rejected
  refine ⟨fun hkey => ?key, fun hdin => ?din, fun htarget => ?target⟩
  case key =>
    have hrej (c : WorkCmd) (hc : c.readsKey = true) : exec c.instr s = rejected :=
      exec_work_of_overwide ho (widthsOk_of_overwide_key hc hkey)
    exact ⟨hrej .keysched rfl, hrej .encrypt rfl, hrej .decrypt rfl⟩
  case din =>
    have hrej (c : WorkCmd) (hc : c.readsDin = true) : exec c.instr s = rejected :=
      exec_work_of_overwide ho (widthsOk_of_overwide_din hc hdin)
    exact ⟨hrej .encrypt rfl, hrej .decrypt rfl, hrej .search rfl⟩
  case target => exact exec_work_of_overwide (c := .search) ho (widthsOk_of_overwide_target rfl htarget)

/-! ## NOP (rule R150) -/

/-- Settles O14: NOP answers the state it is given; a reserved bit makes a word illegal whatever its OP. -/
theorem nopChangesNothing : Obligations.NopChangesNothing :=
  ⟨rfl, fun _ => rfl, fun _ s _ hrsvz => issue_of_decode_error (decode_of_reservedBits hrsvz) s⟩

/-! ## The work commands (rules R143, R148, R182, R224, R226, R276) -/

/-- SUBKEYS as read is K2 shifted up by 8, joined to K1 (rule R40). -/
theorem subkeysWord_eq_shift_or (s : State) :
    subkeysWord s = (s.subK2.setWidth 32 <<< 8) ||| s.subK1.setWidth 32 := by
  have hk1 : s.subK1.toNat < 2 ^ 8 := s.subK1.isLt
  have hk2 : s.subK2.toNat < 2 ^ 8 := s.subK2.isLt
  apply BitVec.eq_of_toNat_eq
  simp (disch := omega) only [subkeysWord, BitVec.toNat_append, BitVec.toNat_or, BitVec.toNat_shiftLeft, BitVec.toNat_setWidth,
    Nat.shiftLeft_eq, Nat.mod_eq_of_lt, BitVec.toNat_zero, Nat.zero_mul, Nat.zero_or]

/-- Settles O16: KEY is the one operand KEYSCHED reads, and the command unit's turn is its completion. -/
theorem keyschedWritesTheSubkeys : Obligations.KeyschedWritesTheSubkeys := by
  intro s ho hkey k t u
  have hfits : widthsOk .keysched s = true := (widthsOk_iff .keysched s).mpr ⟨fun _ => hkey, nofun, nofun⟩
  have hissue : exec .keysched s = .next t := exec_work_of_fits ho hfits
  have hturn : commandUnitTurn t = u := commandUnitTurn_of_keysched rfl
  exact ⟨hissue, hturn, subkeysWord_eq_shift_or u⟩

/-- Settles O17: KEY and DIN are the operands ENCRYPT reads, and the command unit's turn is its completion. -/
theorem encryptWritesTheCiphertext : Obligations.EncryptWritesTheCiphertext := by
  intro s ho hkey hdin k p t u
  have hfits : widthsOk .encrypt s = true := (widthsOk_iff .encrypt s).mpr ⟨fun _ => hkey, fun _ => hdin, nofun⟩
  have hissue : exec .encrypt s = .next t := exec_work_of_fits ho hfits
  have hturn : commandUnitTurn t = u := commandUnitTurn_of_encrypt rfl
  exact ⟨hissue, hturn, rfl⟩

/-- Settles O18: KEY and DIN are the operands DECRYPT reads, and the command unit's turn is its completion. -/
theorem decryptWritesThePlaintext : Obligations.DecryptWritesThePlaintext := by
  intro s ho hkey hdin k c t u
  have hfits : widthsOk .decrypt s = true := (widthsOk_iff .decrypt s).mpr ⟨fun _ => hkey, fun _ => hdin, nofun⟩
  have hissue : exec .decrypt s = .next t := exec_work_of_fits ho hfits
  have hturn : commandUnitTurn t = u := commandUnitTurn_of_decrypt rfl
  exact ⟨hissue, hturn, rfl⟩

/-- Settles O19: DIN and TARGET are the operands SEARCH reads, so KEY is not looked at. -/
theorem searchStarts : Obligations.SearchStarts := by
  intro s ho hdin htarget
  have hfits : widthsOk .search s = true := (widthsOk_iff .search s).mpr ⟨nofun, fun _ => hdin, fun _ => htarget⟩
  exact exec_work_of_fits ho hfits

end Sys2Proof.Machine
end

section
/-!
The obligations of the family of 41_bitvector.md: `permute` (rule R160), and `rotl` by elements and in register terms (rules R162, R163).
-/

namespace Sys2Proof.Machine

/-! ## Permutation (rule R160) -/

/-- Settles O22: `elt_permute` is the rule, and the example's eight elements are computed. -/
theorem permuteReadsThroughTheTable : Obligations.PermuteReadsThroughTheTable :=
  ⟨fun _ n s t _ _ i hi => elt_permute n s t i hi, by decide⟩

/-! ## Rotation (rules R12, R162, R163) -/

/-- Rotation in register terms at every width: the bits shifted out at the left come back at the right (rule R163). -/
theorem toNat_rotl {m n : Nat} (hn : n < m) (v : BitVec m) :
    (rotl v n).toNat = ((v.toNat <<< n) ||| (v.toNat >>> (m - n))) % 2 ^ m := by
  have hright : v.toNat >>> (m - n) < 2 ^ m := (Nat.shiftRight_le _ _).trans_lt v.isLt
  rw [rotl, BitVec.toNat_rotateLeft, Nat.mod_eq_of_lt hn, Nat.or_mod_two_pow, Nat.mod_eq_of_lt hright]

/-- Settles O23: `elt_rotl` is the rule by elements, and both amounts are below the half's width of 5. -/
theorem rotationMovesElementsLeft : Obligations.RotationMovesElementsLeft :=
  ⟨fun _ s n i hi => elt_rotl s n i hi, fun v n hn => toNat_rotl (m := 5) (by omega) v⟩

end Sys2Proof.Machine
end

section
/-!
The obligation of the family of 42_key_schedule.md: the boundary keys (rule R184). A sequence of equal elements stays one through every
stage of the key schedule, and encryption is undone by the rounds with the subkeys exchanged.
-/

namespace Sys2Proof.Machine

/-! ## Sequences of equal elements (rules R160, R162, R165) -/

theorem elt_fill {n : Nat} (b : Bool) {i : Nat} (hi : i < n) : elt (BitVec.fill n b) i = b := by
  cases b <;> simp [elt, BitVec.fill_true, BitVec.fill_false, hi]

/-- Equal elements stay equal under a table of the right shape. -/
theorem permute_fill {n m : Nat} {t : List Nat} (h : tableShape n m t = true) (b : Bool) :
    permute n (BitVec.fill m b) t = BitVec.fill n b := by
  obtain ⟨hlength, hentries⟩ := (tableShape_iff n m t).mp h
  apply eq_of_elt
  intro i hi
  rw [elt_fill b hi]
  exact permute_const n b _ t (fun _ => elt_fill b) hlength hentries i hi

@[simp] theorem rotl_fill (m n : Nat) (b : Bool) : rotl (BitVec.fill m b) n = BitVec.fill m b := by
  apply eq_of_elt
  intro i hi
  rw [elt_rotl _ _ _ hi, elt_fill b hi, elt_fill b (Nat.mod_lt _ (by omega))]

@[simp] theorem leftHalf_fill_ten (b : Bool) : leftHalf 5 (BitVec.fill 10 b) = BitVec.fill 5 b := by
  revert b; decide

@[simp] theorem rightHalf_fill_ten (b : Bool) : rightHalf 5 (BitVec.fill 10 b) = BitVec.fill 5 b := by
  revert b; decide

@[simp] theorem fill_five_append_fill_five (b : Bool) : BitVec.fill 5 b ++ BitVec.fill 5 b = BitVec.fill 10 b := by
  revert b; decide

/-- A key of equal elements has two subkeys of that element, whatever the tables (rule R184). -/
theorem keySchedule_fill {t : Tables} (ht : t.wellFormed = true) (b : Bool) :
    keySchedule t (BitVec.fill 10 b) = (BitVec.fill 8 b, BitVec.fill 8 b) := by
  obtain ⟨hp10, hp8, -⟩ := tables_wellFormed ht
  simp only [keySchedule, permute_fill hp10, leftHalf_fill_ten, rightHalf_fill_ten, rotl_fill, fill_five_append_fill_five,
    permute_fill hp8]

/-! ## Encryption is invertible (rules R184, R228) -/

/-- The whole cipher is undone by itself with the subkeys exchanged: IP and IPINV cancel between the two pairs of rounds. -/
theorem rounds_rounds {t : Tables} (ht : t.wellFormed = true) (blk ka kb : Block) :
    rounds t (rounds t blk ka kb) kb ka = blk := by
  obtain ⟨-, -, -, hipinv, hundoes, -⟩ := tables_wellFormed ht
  rw [rounds_eq_feistel, rounds_eq_feistel t blk, permute_ipinv_ip hipinv hundoes, feistel_feistel, permute_ip_ipinv hipinv hundoes]

theorem decryptBlock_encryptBlock {t : Tables} (ht : t.wellFormed = true) (key : Key) (p : Block) :
    decryptBlock t (encryptBlock t p key) key = p :=
  rounds_rounds ht p _ _

theorem encryptBlock_decryptBlock {t : Tables} (ht : t.wellFormed = true) (key : Key) (c : Block) :
    encryptBlock t (decryptBlock t c key) key = c :=
  rounds_rounds ht c _ _

theorem encryptBlock_bijective {t : Tables} (ht : t.wellFormed = true) (key : Key) :
    Function.Bijective (fun p : Block => encryptBlock t p key) :=
  Function.bijective_iff_has_inverse.mpr
    ⟨fun c => decryptBlock t c key, decryptBlock_encryptBlock ht key, encryptBlock_decryptBlock ht key⟩

/-! ## The boundary keys (rule R184) -/

/-- Settles O25: the two keys are those of equal elements, and encryption is invertible under every key. -/
theorem boundaryKeysGiveConstantSubkeys : Obligations.BoundaryKeysGiveConstantSubkeys := by
  intro t ht
  have hzeros : keySchedule t 0x000#10 = (0x00#8, 0x00#8) := keySchedule_fill ht false
  have hones : keySchedule t 0x3FF#10 = (0xFF#8, 0xFF#8) := keySchedule_fill ht true
  exact ⟨hzeros, hones, fun key _ => encryptBlock_bijective ht key⟩

end Sys2Proof.Machine
end

section
/-!
The obligations of the family of 44_block_cipher.md: the output of the rounds (rules R220, R221), decryption as the inverse of
encryption (rule R228), and the text codec's round trip (rules R250 to R256).
-/

namespace Sys2Proof.Machine

/-! ## The cipher (rules R220, R221, R228) -/

/-- IP cancels the last permutation, and what is left is the two Feistel rounds (rule R220). -/
theorem permute_ip_rounds {t : Tables} (ht : t.wellFormed = true) (blk ka kb : Block) :
    permute 8 (rounds t blk ka kb) t.ip = feistel t (permute 8 blk t.ip) ka kb := by
  obtain ⟨-, -, -, hipinv, hundoes, -⟩ := tables_wellFormed ht
  rw [rounds_eq_feistel, permute_ipinv_ip hipinv hundoes]

/-- Settles O26: IP applied to the output shows the rounds' result, which is `feistel` of the permuted block. -/
theorem roundsOutputIsRightThenLeft : Obligations.RoundsOutputIsRightThenLeft :=
  fun _ blk ka kb ht => permute_ip_rounds ht blk ka kb

/-- Settles O27: the cipher is undone by itself with the subkeys exchanged. -/
theorem decryptInvertsEncrypt : Obligations.DecryptInvertsEncrypt :=
  fun _ key ht => ⟨decryptBlock_encryptBlock ht key, encryptBlock_decryptBlock ht key, encryptBlock_bijective ht key⟩

/-! ## The text codec (rules R250 to R256) -/

/-- The code point of a block's character is the block's value: below 256 there is no surrogate to avoid (rule R251). -/
theorem toNat_blockChar (b : Block) : (blockChar b).toNat = b.toNat := by
  have hvalid : b.toNat.isValidChar := Or.inl (by omega)
  rw [blockChar, val, Char.toNat_ofNat, if_pos hvalid]

/-- A block survives as a character: its code point is below 256 (rules R250, R251). -/
@[simp] theorem charBlock_blockChar (b : Block) : charBlock (blockChar b) = b := by
  rw [charBlock, toNat_blockChar, Nat.mod_eq_of_lt b.isLt, seqOf, BitVec.ofNat_toNat, BitVec.setWidth_eq]

/-- A character comes back from its block with its code point reduced modulo 256 (rule R255). -/
@[simp] theorem blockChar_charBlock (c : Char) : blockChar (charBlock c) = Char.ofNat (c.toNat % 256) := by
  rw [blockChar, val, charBlock, seqOf, BitVec.toNat_ofNat, Nat.mod_mod]

/-- The text codec works character by character, and each block in between is decrypted to what was encrypted (rules R252, R253, R255). -/
theorem decryptText_encryptText {t : Tables} (ht : t.wellFormed = true) (text : List Char) (key : Key) :
    decryptText t (encryptText t text key) key = text.map (fun c => Char.ofNat (c.toNat % 256)) := by
  simp [decryptText, encryptText, decryptBlock_encryptBlock ht]

/-- Reducing the code points of a text modulo 256 keeps a text whose code points are below 256 (rule R256). -/
theorem map_ofNat_mod_eq_self {text : List Char} (h : ∀ c ∈ text, c.toNat < 256) :
    text.map (fun c => Char.ofNat (c.toNat % 256)) = text := by
  have hchar : ∀ c ∈ text, Char.ofNat (c.toNat % 256) = c := fun c hc => by
    rw [Nat.mod_eq_of_lt (h c hc), Char.ofNat_toNat]
  exact (List.map_congr_left hchar).trans text.map_id

/-- Settles O58: the round trip reduces each code point modulo 256, which changes none below 256. -/
theorem textRoundTrip : Obligations.TextRoundTrip :=
  fun _ key text ht =>
    ⟨decryptText_encryptText ht text key, fun h => (decryptText_encryptText ht text key).trans (map_ofNat_mod_eq_self h)⟩

end Sys2Proof.Machine
end

section
/-!
The obligations of the family of 46_brute_force.md: the search set (rules R270, R272), the steps of a SEARCH (rules R278 to R286), the
timestamps of the sink (rule R288), what a search has found at its end (rules R290, R294), and that a command in flight can always be
brought to its end (rules R296, R394).
-/

namespace Sys2Proof.Machine

/-! ## The search set (rules R270, R272) -/

theorem keyMatches_iff (t : Tables) (p c : Block) (k : Key) : keyMatches t p c k = true ↔ decryptBlock t c k = p := beq_iff_eq

/-- Every key is `seqOf 10` of its number, so the search set misses no key that matches (rule R270). -/
theorem mem_searchSet_iff (t : Tables) (p c : Block) (k : Key) : k ∈ searchSet t p c ↔ keyMatches t p c k = true := by
  have hall : k ∈ (List.range Config.keySpace).map (seqOf 10) :=
    List.mem_map.mpr ⟨k.toNat, List.mem_range.mpr k.isLt, key_toNat_inj.mp (seqOf_toNat k.isLt)⟩
  rw [searchSet, List.mem_filter, and_iff_right hall]

theorem searchSet_nodup (t : Tables) (p c : Block) : (searchSet t p c).Nodup := by
  have hinj : ∀ m ∈ List.range 1024, ∀ n ∈ List.range 1024, seqOf 10 m = seqOf 10 n → m = n := fun m hm n hn h => by
    rw [← seqOf_toNat (List.mem_range.mp hm), h, seqOf_toNat (List.mem_range.mp hn)]
  exact (List.nodup_range.map_on hinj).filter _

/-- Decrypting `c` gives `p` exactly where encrypting `p` gives `c` (rule R228). -/
theorem decryptBlock_eq_iff {t : Tables} (ht : t.wellFormed = true) (p c : Block) (k : Key) :
    decryptBlock t c k = p ↔ encryptBlock t p k = c := by
  constructor
  · rintro rfl
    exact encryptBlock_decryptBlock ht k c
  · rintro rfl
    exact decryptBlock_encryptBlock ht k p

/-- Settles O28: the set is of the keys that decrypt `c` to `p`, and decryption inverts encryption. -/
theorem searchSetIsTheEncryptingKeys : Obligations.SearchSetIsTheEncryptingKeys := fun t p c k ht =>
  (mem_searchSet_iff t p c k).trans ((keyMatches_iff t p c k).trans (decryptBlock_eq_iff ht p c k))

/-! ## ABORT (rule R284) -/

/-- Settles O15: the request tests only whether the command in flight is a SEARCH. -/
theorem abortSetsTheCancelFlagOfASearch : Obligations.AbortSetsTheCancelFlagOfASearch :=
  ⟨fun _ ho => congrArg Host.Outcome.next (if_pos ho), fun _ ho => congrArg Host.Outcome.next (if_neg ho)⟩

/-! ## The steps of a SEARCH (rules R278, R280, R286) -/

theorem dispatcherTurn_of_enabled {j : Nat} {s : State} (he : dispatchEnabled j s = true) : dispatcherTurn j s = dispatch j s :=
  if_pos he

/-- Settles O29: the four conditions are those that enable the dispatch step. -/
theorem dispatchHandsOutTheNextKey : Obligations.DispatchHandsOutTheNextKey := by
  refine ⟨fun s j rest hc hs ho hcancel hlt hj => ?enabled, fun s j hno => ?disabled⟩
  case enabled =>
    have he : dispatchEnabled j { s with schedule := rest } = true := (dispatchEnabled_iff j _).mpr ⟨ho, hcancel, hlt, hj⟩
    exact (step_of_schedule hc hs).trans (congrArg Host.Outcome.next (dispatcherTurn_of_enabled he))
  case disabled =>
    refine disabledAgentChangesNothing s (.dispatcher j) (Bool.eq_false_of_not_eq_true fun he => ?_)
    obtain ⟨ho, hcancel, hlt, hj⟩ := (dispatchEnabled_iff j s).mp he
    rcases hno with h | h | h | h
    · exact h ho
    · exact Bool.false_ne_true (hcancel.symm.trans h)
    · exact Nat.not_le.mpr hlt h
    · exact h hj

theorem laneTurn_of_eval {s : State} {j : Nat} {k : Key} (hj : s.lanes[j]? = some (.eval k)) :
    laneTurn j s = evaluateKey j k s := by
  simp only [laneTurn, hj]

/-- The lane step of a key that matches (rule R280). -/
theorem evaluateKey_of_match (j : Nat) {k : Key} {s : State} (hm : keyMatches s.cfg.tables s.opPt s.opIn k = true) :
    evaluateKey j k s = { appendMatch k s with evaluated := s.evaluated + 1, lanes := s.lanes.set j .idle } := by
  simp only [evaluateKey, if_pos hm]
  rfl

/-- The lane step of a key that does not match (rule R280). -/
theorem evaluateKey_of_mismatch (j : Nat) {k : Key} {s : State} (hm : ¬ keyMatches s.cfg.tables s.opPt s.opIn k = true) :
    evaluateKey j k s = { s with evaluated := s.evaluated + 1, lanes := s.lanes.set j .idle } := by
  simp only [evaluateKey, if_neg hm]

/-- The step of a lane that holds a key (rule R280). -/
theorem step_of_lane {s : State} {j : Nat} {k : Key} {rest : List Agent} (hc : s.cfg.wellFormed = true)
    (hs : s.schedule = .lane j :: rest) (hj : s.lanes[j]? = some (.eval k)) :
    step s = .next (evaluateKey j k { s with schedule := rest }) :=
  (step_of_schedule hc hs).trans (congrArg Host.Outcome.next (laneTurn_of_eval hj))

/-- Settles O30: the lane compares by decryption with the latched pair. -/
theorem laneStepEvaluatesItsKey : Obligations.LaneStepEvaluatesItsKey := by
  intro s j k rest hc hs hj
  have hstep := step_of_lane hc hs hj
  have hcompare := keyMatches_iff s.cfg.tables s.opPt s.opIn k
  exact ⟨fun hm => hstep.trans (congrArg Host.Outcome.next (evaluateKey_of_match j (hcompare.mpr hm))),
    fun hm => hstep.trans (congrArg Host.Outcome.next (evaluateKey_of_mismatch j (mt hcompare.mp hm)))⟩

theorem commandUnitTurn_of_join {s : State} (he : joinEnabled s = true) : commandUnitTurn s = join s := by
  obtain ⟨ho, -⟩ := (joinEnabled_iff s).mp he
  simp only [commandUnitTurn, ho, if_pos he]

theorem commandUnit_enabled_of_search {s : State} (ho : s.op = some .search) : agentEnabled .commandUnit s = joinEnabled s := by
  simp only [agentEnabled, ho]

/-- Settles O31: the conditions are those that enable the join, which is the command unit's step during a SEARCH. -/
theorem joinEndsTheSearch : Obligations.JoinEndsTheSearch := by
  refine ⟨fun s rest hc hs ho hidle hend => ?enabled, fun s ho hno => ?disabled⟩
  case enabled =>
    have he : joinEnabled { s with schedule := rest } = true := (joinEnabled_iff _).mpr ⟨ho, hidle, hend⟩
    exact step_of_commandUnit hc hs (commandUnitTurn_of_join he)
  case disabled =>
    refine disabledAgentChangesNothing s .commandUnit (Bool.eq_false_of_not_eq_true fun he => ?_)
    rw [commandUnit_enabled_of_search ho, joinEnabled_iff] at he
    obtain ⟨-, hidle, hend⟩ := he
    rcases hno with ⟨l, hl, hbusy⟩ | ⟨hkeys, hcancel⟩
    · exact hbusy (hidle l hl)
    · exact hend.elim hkeys fun h => Bool.false_ne_true (hcancel.symm.trans h)

/-! ## The timestamps (rule R288) -/

theorem timesOrdered_iff (s : State) :
    timesOrdered s ↔
      (s.sink.map fun e => e.time.toNat).Pairwise (fun a b => a ≤ b) ∧ ∀ e ∈ s.sink, e.time.toNat ≤ s.time.toNat := by
  simp [timesOrdered, List.pairwise_append]

theorem timesOrdered_of_sink_nil {s : State} (h : s.sink = []) : timesOrdered s := by
  simp [timesOrdered, h]

/-- The sink's timestamps stay ordered where TIME only grows. -/
theorem timesOrdered_of_sink_eq {s t : State} (h : timesOrdered s) (hsink : t.sink = s.sink)
    (htime : s.time.toNat ≤ t.time.toNat) : timesOrdered t := by
  obtain ⟨hstamps, hbelow⟩ := (timesOrdered_iff s).mp h
  rw [timesOrdered_iff, hsink]
  exact ⟨hstamps, fun e he => (hbelow e he).trans htime⟩

/-- An entry stamped with the TIME of the moment keeps the order. -/
theorem timesOrdered_of_sink_append {s t : State} {k : Key} (h : timesOrdered s) (hsink : t.sink = s.sink ++ [⟨k, s.time⟩])
    (htime : t.time = s.time) : timesOrdered t := by
  have hstamps : (t.sink.map fun e => e.time.toNat) = (s.sink.map fun e => e.time.toNat) ++ [s.time.toNat] := by
    rw [hsink, List.map_append]
    rfl
  rw [timesOrdered_iff, hstamps, hsink, htime]
  refine ⟨h, fun e he => ?_⟩
  rcases List.mem_append.mp he with hold | hnew
  · exact ((timesOrdered_iff s).mp h).2 e hold
  · rw [List.mem_singleton.mp hnew]

/-- What a lane's turn does to the sink (rule R280). -/
theorem laneTurn_sink (j : Nat) (s : State) :
    (laneTurn j s).sink = s.sink ∨ ∃ k, (laneTurn j s).sink = s.sink ++ [⟨k, s.time⟩] ∧ (laneTurn j s).time = s.time := by
  unfold laneTurn
  split
  · rename_i k _
    by_cases hm : keyMatches s.cfg.tables s.opPt s.opIn k = true
    · rw [evaluateKey_of_match j hm]
      exact .inr ⟨k, rfl, rfl⟩
    · rw [evaluateKey_of_mismatch j hm]
      exact .inl rfl
  · exact .inl rfl
  · exact .inl rfl

theorem commandUnitTurn_sink (s : State) : (commandUnitTurn s).sink = s.sink := by
  rcases commandUnitTurn_cases s with h | ⟨-, h⟩ | ⟨-, h⟩ | ⟨-, h⟩ | ⟨-, -, h⟩ <;> rw [h] <;> rfl

/-- The turns that change the sink: a lane's adds one entry with the TIME of the moment, and the host's and the platform's empty it
(rules R276, R280, R380). -/
theorem agentTurn_sink {a : Agent} {s t : State} (h : agentTurn a s = .next t) :
    t.sink = s.sink ∨ t.sink = [] ∨ ∃ k, t.sink = s.sink ++ [⟨k, s.time⟩] ∧ t.time = s.time := by
  cases a with
  | host =>
    rcases (hostTurn_keeps h).searchResults with ⟨-, hsink⟩ | ⟨-, hsink, -⟩
    · exact .inl hsink
    · exact .inr (.inl hsink)
  | commandUnit =>
    obtain rfl := Host.Outcome.next.inj h
    exact .inl (commandUnitTurn_sink s)
  | dispatcher j =>
    obtain ⟨lanes, nextKey, hframe⟩ := dispatcherTurn_frame j s
    rw [← Host.Outcome.next.inj h, hframe]
    exact .inl rfl
  | lane j =>
    obtain rfl := Host.Outcome.next.inj h
    exact (laneTurn_sink j s).imp_right .inr
  | clock =>
    obtain ⟨time, hframe⟩ := clockTurn_frame s
    rw [← Host.Outcome.next.inj h, hframe]
    exact .inl rfl
  | platform =>
    obtain rfl := Host.Outcome.next.inj h
    exact .inr (.inl rfl)

/-- Settles O33: a step empties the sink, adds an entry with the TIME of the moment, or leaves the sink as it is. -/
theorem timestampsStayOrdered : Obligations.TimestampsStayOrdered := by
  refine ⟨fun c => timesOrdered_of_sink_nil rfl, fun s t hs hstep hwrap => ?_⟩
  obtain ⟨-, a, schedule, draws, hturn, -⟩ := step_cases hstep
  rcases agentTurn_sink hturn with hsink | hsink | ⟨k, hsink, htime⟩
  · rcases hwrap with hle | hnil
    · exact timesOrdered_of_sink_eq hs hsink hle
    · exact timesOrdered_of_sink_nil hnil
  · exact timesOrdered_of_sink_nil hsink
  · exact timesOrdered_of_sink_append hs hsink htime

/-! ## What a SEARCH has found at its end (rules R286, R290, R294) -/

/-- With every lane idle every key handed out is evaluated (rules R41, R57). -/
theorem Inv.evaluated_eq_nextKey {s : State} (h : Inv s) (hidle : ∀ l ∈ s.lanes, l = .idle) : s.evaluated = s.nextKey := by
  rw [← h.allSplit, busyLanes_eq, (laneKeys_nil_iff s).mpr hidle]
  rfl

/-- With no key in a lane, the keys evaluated are those below NEXT_KEY. -/
theorem evaluatedKey_iff_of_laneKeys_nil {s : State} (hl : laneKeys s = []) (k : Key) :
    evaluatedKey s k ↔ k.toNat < s.nextKey := by
  rw [evaluatedKey, hl]
  exact and_iff_left List.not_mem_nil

section
variable {s : State} (h : Inv s) (hlast : s.lastop = 4#4) (ho : s.op = none)
include h ho

theorem Inv.lanes_idle_of_idle : ∀ l ∈ s.lanes, l = .idle := h.spec.lanesIdle.resolve_left (by rw [ho]; nofun)

theorem Inv.laneKeys_nil_of_idle : laneKeys s = [] := (laneKeys_nil_iff s).mpr (h.lanes_idle_of_idle ho)

include hlast

/-- MAP after a search, complete or cancelled: the members of the search set among the keys below NEXT_KEY. -/
theorem Inv.map_iff_of_ended (k : Key) :
    s.map.getLsbD k.toNat = true ↔ k.toNat < s.nextKey ∧ k ∈ searchSet s.cfg.tables s.opPt s.opIn := by
  rw [h.searchMap hlast k, evaluatedKey_iff_of_laneKeys_nil (h.laneKeys_nil_of_idle ho), mem_searchSet_iff]

/-- A search that ended with ABORTED = 0 handed out every key (rule R286). -/
theorem Inv.nextKey_of_finished (ha : s.aborted = false) : s.nextKey = 1024 := by
  have hnot : ¬ s.nextKey < 1024 := fun hlt => Bool.false_ne_true (ha.symm.trans ((h.endedSearch hlast ho).mpr hlt))
  exact Nat.le_antisymm h.nextKeyBound (Nat.not_lt.mp hnot)

end

/-- The sink's keys are a set of keys, each once, where MAP is that set (rule R48). -/
theorem Inv.sinkKeys_perm {s : State} (h : Inv s) {keys : List Key} (hnodup : keys.Nodup)
    (hmap : ∀ k : Key, s.map.getLsbD k.toNat = true ↔ k ∈ keys) : (sinkKeys s).Perm keys :=
  (List.perm_ext_iff_of_nodup h.spec.sinkDistinct hnodup).mpr fun k => (h.mapIsSink k).symm.trans (hmap k)

theorem Inv.count_eq_length_sinkKeys {s : State} (h : Inv s) : s.count = (sinkKeys s).length := by
  rw [h.countIsLength, sinkKeys, List.length_map]

/-- Settles O35: every key was handed out and every lane is idle, so every key is evaluated, and the keys found are the members of the
search set. -/
theorem finishedSearchFindsExactlyTheSearchSet : Obligations.FinishedSearchFindsExactlyTheSearchSet := by
  intro s h hlast ho ha found
  have hnext : s.nextKey = 1024 := h.nextKey_of_finished hlast ho ha
  have heval : s.evaluated = 1024 := (h.evaluated_eq_nextKey (h.lanes_idle_of_idle ho)).trans hnext
  have hmap (k : Key) : s.map.getLsbD k.toNat = true ↔ k ∈ found := by
    rw [h.map_iff_of_ended hlast ho, hnext]
    exact and_iff_right k.isLt
  have hperm : (sinkKeys s).Perm found := h.sinkKeys_perm (searchSet_nodup _ _ _) hmap
  have hcount : (readWindow s 0x02C).toNat = found.length := by
    obtain ⟨-, -, -, -, hread⟩ := progressAndCountReadTheCounters.2 s h
    rw [hread, h.count_eq_length_sinkKeys, hperm.length_eq]
  have hprogress : readWindow s 0x028 = 0x04000400#32 := by
    have hread : readWindow s 0x028 = progressWord s := readWindow_regOffset s .progress
    rw [hread, progressWord, hnext, heval]
    rfl
  refine ⟨hmap, hcount, hperm, hnext, heval, hprogress, fun hone => ?_⟩
  have hascending := h.singleLaneAscending hone
  rwa [h.laneKeys_nil_of_idle ho, List.append_nil] at hascending

/-- Settles O36: every lane is idle, so every key handed out is evaluated, and the keys found are the members of the search set among
them. -/
theorem abortedSearchFindsExactlyThePrefix : Obligations.AbortedSearchFindsExactlyThePrefix := by
  intro s h hlast ho ha
  obtain ⟨hdispatched, -⟩ := progressAndCountReadTheCounters.2 s h
  exact ⟨(h.endedSearch hlast ho).mp ha, h.evaluated_eq_nextKey (h.lanes_idle_of_idle ho), hdispatched,
    evaluatedKey_iff_of_laneKeys_nil (h.laneKeys_nil_of_idle ho), h.map_iff_of_ended hlast ho⟩

/-! ## A command in flight can be brought to its end (rules R296, R394) -/

/-- A lane holds a key only during a SEARCH (rule R57, 1). -/
theorem Inv.search_of_eval {s : State} (h : Inv s) {j : Nat} {k : Key} (hj : s.lanes[j]? = some (.eval k)) :
    s.op = some .search :=
  h.spec.lanesIdle.resolve_right fun hidle => nomatch hidle _ (List.mem_of_getElem? hj)

theorem lane_enabled_iff (j : Nat) (s : State) : agentEnabled (.lane j) s = true ↔ ∃ k, s.lanes[j]? = some (.eval k) := by
  refine ⟨fun he => ?_, fun ⟨_, hj⟩ => lane_enabled_of_eval hj⟩
  simp only [agentEnabled] at he
  split at he
  · exact ⟨_, ‹_›⟩
  · cases he
  · cases he

/-- A lane step uses up one of the steps left (rule R280). -/
theorem remainingSteps_evaluateKey {s : State} (h : Inv s) {j : Nat} {k : Key} (hj : s.lanes[j]? = some (.eval k)) :
    remainingSteps (evaluateKey j k s) < remainingSteps s := by
  have hlanes := (evaluateKey_laneKeys hj).length_eq
  rw [← busyLanes_eq, List.length_cons, ← busyLanes_eq] at hlanes
  have ho : s.op = some .search := h.search_of_eval hj
  have ho' : (evaluateKey j k s).op = some .search := by rw [evaluateKey_frame]; exact ho
  have hnext : (evaluateKey j k s).nextKey = s.nextKey := by rw [evaluateKey_frame]
  simp only [remainingSteps, ho, ho', hnext]
  omega

/-- `t` is the end of the command in flight in `s`; of a SEARCH that was not cancelled, the end with all keys evaluated. -/
structure Ends (s t : State) : Prop where
  op : t.op = none
  done : t.done = true
  complete : s.op = some .search → s.cancel = false → t.nextKey = 1024 ∧ t.evaluated = 1024 ∧ t.aborted = false

/-- The command unit's enabled step is the end of the command in flight (rules R148, R286). -/
theorem Inv.commandUnitTurn_ends {s : State} (h : Inv s) (he : agentEnabled .commandUnit s = true) :
    Ends s (Machine.commandUnitTurn s) := by
  obtain ⟨-, hop, hdone⟩ := Machine.commandUnitTurn_ends he
  refine ⟨hop, hdone, fun ho hcancel => ?_⟩
  rw [commandUnit_enabled_of_search ho] at he
  obtain ⟨-, hidle, hend⟩ := (joinEnabled_iff s).mp he
  have hnext : s.nextKey = 1024 := hend.resolve_right (by rw [hcancel]; nofun)
  rw [commandUnitTurn_of_join he]
  exact ⟨hnext, (h.evaluated_eq_nextKey hidle).trans hnext, by rw [join_aborted, hcancel, Bool.false_and]⟩

theorem commandUnitTurn_schedule (s : State) (schedule : List Agent) :
    commandUnitTurn { s with schedule := schedule } = { commandUnitTurn s with schedule := schedule } := by
  simp only [commandUnitTurn]
  split
  · rfl
  · rfl
  · rfl
  · rfl
  · exact (apply_ite (fun u : State => { u with schedule := schedule }) (joinEnabled s = true) (join s) s).symm

theorem evaluateKey_schedule (j : Nat) (k : Key) (s : State) (schedule : List Agent) :
    evaluateKey j k { s with schedule := schedule } = { evaluateKey j k s with schedule := schedule } := by
  rw [evaluateKey_frame, evaluateKey_frame]

/-- An enabled worker's turn, whatever the schedule, keeps the invariant, uses up one of the steps left, and ends the command in flight
or goes on with it (rules R148, R278, R280, R286). -/
theorem Inv.workerTurn {s : State} (h : Inv s) {a : Agent} (hw : isWorker a = true) (he : agentEnabled a s = true) :
    ∃ t, Inv t ∧ (∀ schedule, Machine.agentTurn a { s with schedule := schedule } = .next { t with schedule := schedule }) ∧
      remainingSteps t < remainingSteps s ∧ (Ends s t ∨ (t.op = s.op ∧ t.cancel = s.cancel)) := by
  cases a with
  | host => cases hw
  | clock => cases hw
  | platform => cases hw
  | commandUnit =>
    have hends := h.commandUnitTurn_ends he
    have hbusy : s.op ≠ none := (Machine.commandUnitTurn_ends he).1
    refine ⟨Machine.commandUnitTurn s, h.commandUnitTurn,
      fun q => congrArg Host.Outcome.next (commandUnitTurn_schedule s q), ?_, .inl hends⟩
    rw [remainingSteps_idle hends.op]
    exact remainingSteps_busy hbusy
  | dispatcher j =>
    have hd : dispatchEnabled j s = true := he
    exact ⟨Machine.dispatch j s, h.dispatch hd,
      fun q => congrArg Host.Outcome.next (dispatcherTurn_of_enabled (s := { s with schedule := q }) hd),
      remainingSteps_dispatch hd, .inr ⟨rfl, rfl⟩⟩
  | lane j =>
    obtain ⟨k, hj⟩ := (lane_enabled_iff j s).mp he
    have hturn (q : List Agent) : Machine.laneTurn j { s with schedule := q } = { Machine.evaluateKey j k s with schedule := q } :=
      (laneTurn_of_eval (s := { s with schedule := q }) hj).trans (evaluateKey_schedule j k s q)
    refine ⟨Machine.evaluateKey j k s, h.evaluateKey hj, fun q => congrArg Host.Outcome.next (hturn q),
      remainingSteps_evaluateKey h hj, .inr ?_⟩
    rw [evaluateKey_frame]
    exact ⟨rfl, rfl⟩

/-- The step of an agent that the schedule names, where the agent's turn is known whatever the schedule. -/
theorem step_of_turn {s t : State} {a : Agent} {rest : List Agent} (hc : s.cfg.wellFormed = true)
    (ht : agentTurn a { s with schedule := rest } = .next { t with schedule := rest }) :
    step { s with schedule := a :: rest } = .next { t with schedule := rest } :=
  (step_of_schedule (s := { s with schedule := a :: rest }) hc rfl).trans ht

/-- Turns of enabled workers, one after the other, reach the end of the command in flight within the steps it has left. -/
theorem Inv.exists_ending_turns {s : State} (h : Inv s) (hbusy : s.op ≠ none) (sched : List Agent) :
    ∃ turns : List Agent, (∀ a ∈ turns, isWorker a = true) ∧ turns.length ≤ remainingSteps s ∧
      ∃ t, core.run turns.length { s with schedule := turns ++ sched } = .next t ∧ t.schedule = sched ∧ Ends s t := by
  obtain ⟨a, hw, he⟩ := busyBlockHasAnEnabledWorker s h hbusy
  obtain ⟨t, ht, hturn, hfewer, hends | ⟨hop, hcancel⟩⟩ := h.workerTurn hw he
  · exact ⟨[a], by simpa using hw, Nat.one_le_of_lt hfewer, { t with schedule := sched },
      run_succ_of_step 0 (step_of_turn h.config (hturn sched)), rfl, hends.op, hends.done, hends.complete⟩
  · obtain ⟨turns, hworkers, hlength, u, hrun, hsched, hends⟩ := ht.exists_ending_turns (by rwa [hop]) sched
    have hcomplete := hends.complete
    rw [hop, hcancel] at hcomplete
    exact ⟨a :: turns, List.forall_mem_cons.mpr ⟨hw, hworkers⟩, hlength.trans_lt hfewer, u,
      (run_succ_of_step turns.length (step_of_turn h.config (hturn _))).trans hrun, hsched, hends.op, hends.done, hcomplete⟩
termination_by remainingSteps s

/-- Settles O39: with no command in flight no turn is needed, and otherwise enabled workers bring it to its end. -/
theorem workCommandCanAlwaysFinish : Obligations.WorkCommandCanAlwaysFinish := by
  intro s h
  by_cases ho : s.op = none
  · exact ⟨[], by simp, Nat.zero_le _, s, rfl, ho, rfl, absurd ho, fun hsearch => nomatch ho.symm.trans hsearch⟩
  · obtain ⟨turns, hworkers, hlength, t, hrun, hsched, hends⟩ := h.exists_ending_turns ho s.schedule
    exact ⟨turns, hworkers, hlength, t, hrun, hends.op, hsched, fun _ => hends.done, hends.complete⟩

end Sys2Proof.Machine
end

section
/-!
The obligations of the family of 60_exceptions.md: the order of the checks of an issue (rules R340, R352), the bus errors of the host
(rules R74, R344), and the idle block (rule R370).
-/

namespace Sys2Proof.Machine

/-! ## The order of the checks (rules R141, R352) -/

/-- Acceptance keeps ERR and ERRCODE (rule R143). -/
theorem accept_error (c : WorkCmd) (s : State) : (accept c s).err = s.err ∧ (accept c s).errcode = s.errcode := by
  by_cases hc : c = .search
  · subst hc
    exact ⟨rfl, rfl⟩
  · rw [accept_cipher hc]
    exact ⟨rfl, rfl⟩

/-- ABORT changes the cancel flag only (rule R284). -/
theorem abortRequest_frame (s : State) : ∃ cancel, abortRequest s = { s with cancel := cancel } := by
  unfold abortRequest
  split
  · exact ⟨_, rfl⟩
  · exact ⟨_, rfl⟩

/-- Settles O10: the decoder's answer is the first check, BUSY the second and the widths the third; acceptance, NOP and ABORT leave the
error as it is. -/
theorem firstFailingCheckDecides : Obligations.FirstFailingCheckDecides := by
  intro w s
  refine ⟨fun e he => issue_of_decode_error he s, fun c hd ho => ?busy, fun c hd ho hw => ?overwide, fun c hd ho hw => ?accepted,
    fun hd => ?neverRejected⟩
  case busy => exact (issue_of_decode_ok hd s).trans (exec_work_of_busy ho c)
  case overwide => exact (issue_of_decode_ok hd s).trans (exec_work_of_overwide ho hw)
  case accepted => exact ⟨accept c s, (issue_of_decode_ok hd s).trans (exec_work_of_fits ho hw), rfl, accept_error c s⟩
  case neverRejected =>
    rcases hd with hnop | habort
    · exact ⟨s, issue_of_decode_ok hnop s, rfl, rfl⟩
    · obtain ⟨cancel, hframe⟩ := abortRequest_frame s
      exact ⟨{ s with cancel := cancel }, (issue_of_decode_ok habort s).trans (congrArg Host.Outcome.next hframe), rfl, rfl⟩

/-! ## Bus errors (rules R74, R344) -/

/-- Inside the window an access that is not an aligned 32-bit one faults, whatever its effect (rule R344). -/
theorem admitted_busError {off width : Nat} (hlt : off < 512) (hbad : off % 4 ≠ 0 ∨ width ≠ 4)
    (o : Host.Outcome State Fault Refusal) : admitted off width o = .fault (.busError off width) := by
  rw [admitted, if_neg (Nat.not_le.mpr hlt), if_neg (not_and_or.mpr hbad)]

/-- Settles O55: the bus's check comes before the effect of a read, a write or a POLL; a POLL's width is always 4. -/
theorem otherAccessesAreBusErrors : Obligations.OtherAccessesAreBusErrors := by
  intro s off width rest sched hc hs hlt
  refine ⟨fun hbad => ⟨fun hread => ?read, fun v hwrite => ?write⟩, fun hmisaligned mask value hpoll => ?poll⟩
  case read => exact (step_of_transaction hc hs hread).trans (admitted_busError hlt hbad _)
  case write => exact (step_of_transaction hc hs hwrite).trans (admitted_busError hlt hbad _)
  case poll => exact (step_of_transaction hc hs hpoll).trans (admitted_busError hlt (.inl hmisaligned) _)

/-! ## The idle block (rule R370) -/

/-- With no command in flight no step of an internal agent is enabled. -/
theorem Inv.internal_disabled_of_idle {s : State} (h : Inv s) (ho : s.op = none) {a : Agent} (hhost : a ≠ .host)
    (hplatform : a ≠ .platform) : agentEnabled a s = false := by
  have hns : s.op ≠ some .search := by rw [ho]; nofun
  cases a with
  | host => exact absurd rfl hhost
  | commandUnit => simp only [agentEnabled, ho]
  | dispatcher j =>
    have hdis : ¬ dispatchEnabled j s = true := fun he => hns ((dispatchEnabled_iff j s).mp he).1
    exact Bool.eq_false_of_not_eq_true hdis
  | lane j =>
    have hdis : ¬ agentEnabled (.lane j) s = true := fun he =>
      let ⟨_, hj⟩ := (lane_enabled_iff j s).mp he
      hns (h.search_of_eval hj)
    exact Bool.eq_false_of_not_eq_true hdis
  | clock => exact beq_eq_false_iff_ne.mpr hns
  | platform => exact absurd rfl hplatform

theorem Inv.internalTurn_of_idle {s : State} (h : Inv s) (ho : s.op = none) {a : Agent} (hhost : a ≠ .host)
    (hplatform : a ≠ .platform) : Machine.agentTurn a s = .next s :=
  disabledAgentChangesNothing s a (h.internal_disabled_of_idle ho hhost hplatform)

/-- Of the agents only the host can make an idle block busy; the reset step leaves it idle (rules R59, R370). -/
theorem Inv.eq_host_of_turn_starts {s t : State} (h : Inv s) (ho : s.op = none) {a : Agent}
    (hturn : Machine.agentTurn a s = .next t) (hbusy : t.op ≠ none) : a = .host := by
  by_contra hhost
  by_cases hplatform : a = .platform
  · subst hplatform
    obtain rfl := Host.Outcome.next.inj hturn
    exact hbusy rfl
  · obtain rfl := Host.Outcome.next.inj ((h.internalTurn_of_idle ho hhost hplatform).symm.trans hturn)
    exact hbusy ho

/-- A register's write leaves the command in flight as it is (rule R76). -/
theorem writeReg_op (r : Reg) (v : Word) (s : State) : (writeReg r v s).op = s.op := by
  cases r
  case status =>
    simp only [writeReg, writeStatus]
    split <;> split <;> rfl
  all_goals rfl

/-- A host write at an aligned offset other than CMD's leaves the command in flight as it is (rules R49, R76). -/
theorem memWrite_op {off : Nat} (ha : off % 4 = 0) (hcmd : off ≠ 0x00C) {v : Word} {s t : State}
    (hm : memWrite off v s = .next t) : t.op = s.op := by
  cases hreg : regAt off with
  | none =>
    rw [memWrite_of_regAt_none hreg] at hm
    rw [Host.Outcome.next.inj hm]
  | some r =>
    obtain rfl := regOffset_of_regAt ha hreg
    have hr : r ≠ .cmd := by rintro rfl; exact hcmd rfl
    rw [memWrite_regOffset hr] at hm
    rw [← Host.Outcome.next.inj hm, writeReg_op]

/-- The host's turn leaves the command in flight as it is, unless the next line of its script writes CMD (rules R76, R107, R140). -/
theorem hostTurn_op {s t : State} (h : hostTurn s = .next t) : t.op = s.op ∨ ∃ v rest, WritesNext s 0x00C v rest := by
  rcases hostTurn_cases h with ⟨script, record, rfl⟩ | ⟨off, v, rest, hwrites, -, ha, hm⟩
  · exact .inl rfl
  · by_cases hcmd : off = 0x00C
    · exact .inr ⟨v, rest, hcmd ▸ hwrites⟩
    · exact .inl ((memWrite_op ha hcmd hm).trans rfl)

/-- Settles O41: the internal agents are disabled, so their turns change nothing; of the two others the reset step leaves the block
idle, and the host's turn too unless it writes CMD. -/
theorem idleBlockStaysIdle : Obligations.IdleBlockStaysIdle := by
  intro s h ho
  refine ⟨fun a hhost hplatform =>
    ⟨h.internal_disabled_of_idle ho hhost hplatform, h.internalTurn_of_idle ho hhost hplatform⟩, fun t hstep hbusy => ?_⟩
  obtain ⟨-, a, schedule, draws, hturn, hagent⟩ := step_cases hstep
  obtain rfl : a = .host := (h.ownFields s.script s.record schedule draws).eq_host_of_turn_starts ho hturn hbusy
  refine ⟨takeTurn_agent hagent, ?_⟩
  obtain hkept | ⟨v, rest, hwrite | ⟨src, hcopy, -⟩⟩ := hostTurn_op hturn
  · exact absurd (hkept.trans ho) hbusy
  · exact .inl ⟨v, rest, hwrite⟩
  · exact .inr ⟨src, rest, hcopy⟩

end Sys2Proof.Machine
end

section
/-!
The obligations of the family of 70_reset_and_hazards.md: the reset step (rules R59, R380), the steps a command has left (rules R296,
R394), and the weakly fair runs (rule R394).
-/

namespace Sys2Proof.Machine

/-! ## The reset step (rules R59, R380) -/

/-- Settles O3: the reset step is the platform's turn, which takes the reset state and keeps the model's own fields. -/
theorem resetStepTakesTheResetValues : Obligations.ResetStepTakesTheResetValues := by
  intro s rest hc hs
  exact ⟨_, step_of_schedule hc hs, rfl, rfl, rfl, rfl, rfl⟩

/-! ## What a turn does to a command in flight (rules R296, R394) -/

/-- The command in flight in `s` goes on in `t`: it is no further from its end, and nearer unless its keys and lanes are as they
were. -/
structure GoesOn (s t : State) : Prop where
  op : t.op = s.op
  cancel : s.cancel = true → t.cancel = true
  progress : remainingSteps t < remainingSteps s ∨ (t.nextKey = s.nextKey ∧ t.lanes = s.lanes)

theorem GoesOn.remainingSteps_le {s t : State} (h : GoesOn s t) : remainingSteps t ≤ remainingSteps s := by
  obtain hfewer | ⟨hnext, hlanes⟩ := h.progress
  · exact hfewer.le
  · exact (remainingSteps_congr h.op hnext hlanes).le

/-- While a command is in flight, a turn is the reset step, the command unit's end of the command, or one with which the command goes
on. -/
theorem Inv.busyTurn {s t : State} (h : Inv s) (hbusy : s.op ≠ none) {a : Agent} {schedule : List Agent} {draws : Nat}
    (hturn : Machine.agentTurn a { s with schedule := schedule, draws := draws } = .next t) :
    (a = .platform ∧ t.op = none) ∨ (a = .commandUnit ∧ Ends s t) ∨ GoesOn s t := by
  have h' : Inv { s with schedule := schedule, draws := draws } := h.ownFields s.script s.record schedule draws
  by_cases he : Machine.agentEnabled a { s with schedule := schedule, draws := draws } = true
  case neg =>
    rw [disabledAgentChangesNothing _ a (Bool.eq_false_of_not_eq_true he)] at hturn
    obtain rfl := Host.Outcome.next.inj hturn
    exact .inr (.inr ⟨rfl, id, .inr ⟨rfl, rfl⟩⟩)
  cases a with
  | host =>
    have hkeeps := hostTurn_keeps hturn
    obtain ⟨hop, hkept⟩ := hkeeps.busyKept hbusy
    exact .inr (.inr ⟨hop, hkeeps.cancelKept hbusy, .inr hkept⟩)
  | commandUnit =>
    have hends := h'.commandUnitTurn_ends he
    rw [Host.Outcome.next.inj hturn] at hends
    exact .inr (.inl ⟨rfl, hends.op, hends.done, hends.complete⟩)
  | dispatcher j =>
    obtain rfl := (dispatcherTurn_of_enabled he).symm.trans (Host.Outcome.next.inj hturn)
    exact .inr (.inr ⟨rfl, id, .inl (remainingSteps_dispatch he)⟩)
  | lane j =>
    obtain ⟨k, hj⟩ := (lane_enabled_iff j _).mp he
    obtain rfl := (laneTurn_of_eval hj).symm.trans (Host.Outcome.next.inj hturn)
    have hfewer := remainingSteps_evaluateKey h' hj
    rw [evaluateKey_frame] at hfewer ⊢
    exact .inr (.inr ⟨rfl, id, .inl hfewer⟩)
  | clock =>
    obtain ⟨time, hframe⟩ := clockTurn_frame { s with schedule := schedule, draws := draws }
    obtain rfl := hframe.symm.trans (Host.Outcome.next.inj hturn)
    exact .inr (.inr ⟨rfl, id, .inr ⟨rfl, rfl⟩⟩)
  | platform =>
    obtain rfl := Host.Outcome.next.inj hturn
    exact .inl ⟨rfl, rfl⟩

/-- Settles O38: an enabled worker's turn uses up a step; any other turn ends the command, after which no step is left, or goes on
with it. -/
theorem workerStepsAreUsedUp : Obligations.WorkerStepsAreUsedUp := by
  refine fun s h => ⟨fun a hw he => ?worker, fun hbusy t hstep => ?anyStep⟩
  case worker =>
    obtain ⟨t, -, hturn, hfewer, -⟩ := h.workerTurn hw he
    exact ⟨{ t with schedule := s.schedule }, hturn s.schedule, hfewer⟩
  case anyStep =>
    obtain ⟨-, a, schedule, draws, hturn, -⟩ := step_cases hstep
    rcases h.busyTurn hbusy hturn with ⟨-, hidle⟩ | ⟨-, hends⟩ | hgoes
    · exact (remainingSteps_idle hidle).trans_le (Nat.zero_le _)
    · exact (remainingSteps_idle hends.op).trans_le (Nat.zero_le _)
    · exact hgoes.remainingSteps_le

/-! ## A command that goes on for ever comes to rest (rule R394) -/

/-- The fields that the enabling conditions of the workers read are the same in both states (rules R148, R278, R280, R286). -/
structure SameWork (s t : State) : Prop where
  op : t.op = s.op
  nextKey : t.nextKey = s.nextKey
  lanes : t.lanes = s.lanes
  cancel : t.cancel = s.cancel

theorem SameWork.refl (s : State) : SameWork s s := ⟨rfl, rfl, rfl, rfl⟩

theorem SameWork.trans {s t u : State} (h : SameWork s t) (h' : SameWork t u) : SameWork s u :=
  ⟨h'.op.trans h.op, h'.nextKey.trans h.nextKey, h'.lanes.trans h.lanes, h'.cancel.trans h.cancel⟩

theorem SameWork.agentEnabled {s t : State} (h : SameWork s t) {a : Agent} (hw : isWorker a = true) :
    agentEnabled a t = agentEnabled a s := by
  cases a with
  | host => cases hw
  | clock => cases hw
  | platform => cases hw
  | commandUnit => simp only [Machine.agentEnabled, joinEnabled, h.op, h.nextKey, h.lanes, h.cancel]
  | dispatcher j => simp only [Machine.agentEnabled, dispatchEnabled, h.op, h.nextKey, h.lanes, h.cancel]
  | lane j => simp only [Machine.agentEnabled, h.lanes]

/-- A bound on the changes still to come that a worker's enabling condition can see: the workers' steps and, weighing less than a
step, the setting of the cancel flag. -/
def changesLeft (s : State) : Nat := 2 * remainingSteps s + (!s.cancel).toNat

theorem GoesOn.cancel_toNat_le {s t : State} (h : GoesOn s t) : (!t.cancel).toNat ≤ (!s.cancel).toNat := by
  cases hs : s.cancel with
  | false => exact Bool.toNat_le _
  | true => rw [h.cancel hs]

theorem GoesOn.changesLeft_le {s t : State} (h : GoesOn s t) : changesLeft t ≤ changesLeft s :=
  Nat.add_le_add (Nat.mul_le_mul_left 2 h.remainingSteps_le) h.cancel_toNat_le

/-- Where none of the changes left is used up, the workers find all as it was. -/
theorem GoesOn.sameWork {s t : State} (h : GoesOn s t) (heq : changesLeft t = changesLeft s) : SameWork s t := by
  have hsteps := h.remainingSteps_le
  have hflag := h.cancel_toNat_le
  unfold changesLeft at heq
  obtain ⟨hnext, hlanes⟩ := h.progress.resolve_left (by omega)
  have hflags : (!t.cancel).toNat = (!s.cancel).toNat := by omega
  have hcancel : ∀ a b : Bool, (!a).toNat = (!b).toNat → a = b := by decide
  exact ⟨h.op, hnext, hlanes, hcancel _ _ hflags⟩

/-- A command that goes on for ever comes to a state after which the workers find nothing changed. -/
theorem exists_rest_of_goesOn {states : Nat → State} (h : ∀ n, GoesOn (states n) (states (n + 1))) :
    ∃ n, ∀ m, n ≤ m → SameWork (states n) (states m) := by
  have hanti : Antitone fun n => changesLeft (states n) := antitone_nat_of_succ_le fun n => (h n).changesLeft_le
  obtain ⟨n, hconst⟩ := WellFoundedLT.antitone_chain_condition hanti
  refine ⟨n, fun m hm => ?_⟩
  induction m, hm using Nat.le_induction with
  | base => exact SameWork.refl _
  | succ m hm ih =>
    have heq : changesLeft (states (m + 1)) = changesLeft (states m) :=
      (hconst (m + 1) (Nat.le_succ_of_le hm)).symm.trans (hconst m hm)
    exact ih.trans ((h m).sameWork heq)

/-! ## Unending runs (rules R380, R394) -/

section
variable {turns : Nat → Agent} {states : Nat → State} (hrun : IsRun turns states)
include hrun

/-- A run that begins in a state that meets the invariant meets it for ever. -/
theorem IsRun.inv (h : Inv (states 0)) (n : Nat) : Inv (states n) := by
  induction n with
  | zero => exact h
  | succ n ih => exact stepKeepsTheInvariant _ _ (ih.ownFields (states n).script (states n).record _ (states n).draws) (hrun n)

theorem IsRun.busyTurn {n : Nat} (h : Inv (states n)) (hbusy : (states n).op ≠ none) :
    (turns n = .platform ∧ (states (n + 1)).op = none) ∨
    (turns n = .commandUnit ∧ Ends (states n) (states (n + 1))) ∨ GoesOn (states n) (states (n + 1)) :=
  h.busyTurn hbusy (hrun.turn n).2

/-- A turn after which the command is still in flight is one with which it goes on. -/
theorem IsRun.goesOn {n : Nat} (h : Inv (states n)) (hbusy : (states n).op ≠ none) (hnext : (states (n + 1)).op ≠ none) :
    GoesOn (states n) (states (n + 1)) := by
  rcases hrun.busyTurn h hbusy with ⟨-, hidle⟩ | ⟨-, hends⟩ | hgoes
  · exact absurd hidle hnext
  · exact absurd hends.op hnext
  · exact hgoes

/-- The step of an enabled worker in a run uses up one of the steps left. -/
theorem IsRun.remainingSteps_lt {n : Nat} (h : Inv (states n)) (hw : isWorker (turns n) = true)
    (he : agentEnabled (turns n) (states n) = true) : remainingSteps (states (n + 1)) < remainingSteps (states n) := by
  have h' : Inv { states n with schedule := [] } := h.ownFields (states n).script (states n).record [] (states n).draws
  obtain ⟨t, hturn, hfewer⟩ := (workerStepsAreUsedUp _ h').1 (turns n) hw he
  obtain rfl := Host.Outcome.next.inj (hturn.symm.trans (hrun.turn n).2)
  exact hfewer

/-- In a weakly fair run no command is in flight for ever: once it had come to rest, some worker would stay enabled without ever
taking its step. -/
theorem IsRun.exists_idle (hfair : WeaklyFair turns states) (h0 : Inv (states 0)) (n : Nat) :
    ∃ m, n ≤ m ∧ (states m).op = none := by
  by_contra hnever
  push Not at hnever
  have hgoes (i : Nat) : GoesOn (states (n + i)) (states (n + i + 1)) :=
    hrun.goesOn (hrun.inv h0 _) (hnever _ (Nat.le_add_right n i)) (hnever _ (Nat.le_add_right n (i + 1)))
  obtain ⟨i, hrest⟩ := exists_rest_of_goesOn hgoes
  have hsame (m : Nat) (hm : n + i ≤ m) : SameWork (states (n + i)) (states m) := by
    obtain ⟨k, rfl⟩ := Nat.exists_eq_add_of_le (Nat.le_of_add_right_le hm)
    exact hrest k (Nat.le_of_add_le_add_left hm)
  obtain ⟨a, hw, he⟩ := busyBlockHasAnEnabledWorker _ (hrun.inv h0 (n + i)) (hnever _ (Nat.le_add_right n i))
  obtain ⟨w, ha⟩ := Option.isSome_iff_exists.mp hw
  obtain ⟨m, hm, hturn, hen⟩ := hfair w (n + i) fun m hm => ⟨a, ha, ((hsame m hm).agentEnabled hw).trans he⟩
  have hfewer := hrun.remainingSteps_lt (hrun.inv h0 m) (Option.isSome_iff_exists.mpr ⟨w, hturn⟩) hen
  have hbefore := hsame m hm
  have hafter := hsame (m + 1) (Nat.le_succ_of_le hm)
  rw [remainingSteps_congr hafter.op hafter.nextKey hafter.lanes,
    remainingSteps_congr hbefore.op hbefore.nextKey hbefore.lanes] at hfewer
  exact lt_irrefl _ hfewer

/-- While the block stays busy, the command in flight is the same. -/
theorem IsRun.op_eq_of_busy (h0 : Inv (states 0)) {n m : Nat} (hnm : n ≤ m) (hbusy : ∀ k, n ≤ k → k ≤ m → (states k).op ≠ none) :
    (states m).op = (states n).op := by
  induction m, hnm using Nat.le_induction with
  | base => rfl
  | succ m hm ih =>
    have hgoes : GoesOn (states m) (states (m + 1)) :=
      hrun.goesOn (hrun.inv h0 m) (hbusy m hm (Nat.le_succ m)) (hbusy (m + 1) (Nat.le_succ_of_le hm) le_rfl)
    exact hgoes.op.trans (ih fun k hk hkm => hbusy k hk (Nat.le_succ_of_le hkm))

/-- In a weakly fair run a command in flight has a last turn: the block stays busy up to it and is idle after it. -/
theorem IsRun.exists_last_turn (hfair : WeaklyFair turns states) (h0 : Inv (states 0)) {n : Nat} (hbusy : (states n).op ≠ none) :
    ∃ m, n ≤ m ∧ (∀ k, n ≤ k → k ≤ m → (states k).op ≠ none) ∧ (states (m + 1)).op = none := by
  have hidle := hrun.exists_idle hfair h0 n
  obtain ⟨hn, hop⟩ := Nat.find_spec hidle
  have hfirst (k : Nat) (hk : k < Nat.find hidle) (hnk : n ≤ k) : (states k).op ≠ none :=
    fun hnone => Nat.find_min hidle hk ⟨hnk, hnone⟩
  have hlt : n < Nat.find hidle := lt_of_le_of_ne hn fun heq => hbusy (heq ▸ hop)
  obtain ⟨m, hm⟩ := Nat.exists_eq_add_one_of_ne_zero (Nat.ne_zero_of_lt hlt)
  rw [hm] at hop hlt hfirst
  exact ⟨m, Nat.le_of_lt_succ hlt, fun k hnk hkm => hfirst k (Nat.lt_succ_of_le hkm) hnk, hop⟩

end

/-- Settles O60: the command's last turn leaves the block idle, so it is the reset step or the command unit's end of the command. -/
theorem everyFairRunCompletes : Obligations.EveryFairRunCompletes := by
  intro turns states hrun hfair h0 n hbusy
  obtain ⟨m, hnm, hstays, hidle⟩ := hrun.exists_last_turn hfair h0 hbusy
  refine ⟨m, hnm, fun k hnk hkm => ?same, hidle, ?last⟩
  case same => exact hrun.op_eq_of_busy h0 hnk fun i hni hik => hstays i hni (hik.trans hkm)
  case last =>
    rcases hrun.busyTurn (hrun.inv h0 m) (hstays m hnm le_rfl) with ⟨hplatform, -⟩ | ⟨hunit, hends⟩ | hgoes
    · exact .inl hplatform
    · exact .inr ⟨hunit, hends.done, hends.complete⟩
    · exact absurd (hgoes.op.symm.trans hidle) (hstays m hnm le_rfl)

end Sys2Proof.Machine
end
